-- ==== Sys2Proof/Word.lean ====
section
/-! DEFINITION. The two word types of the block: a byte of the Payload and a duration in microseconds. -/

namespace Sys2Proof

/-- A byte, an unsigned value 0..255 whose bit 0 is the least significant (00_scope.md R6, R7). -/
abbrev Byte := BitVec 8

/-- A duration in whole microseconds, 16 bits unsigned (10_state.md R21). -/
abbrev Micros := BitVec 16

end Sys2Proof
end

