-- ==== Sys2Proof/Config.lean ====
section
/-! DEFINITION. What is fixed for one instance of the block: the dialect, the record of its constants, and the
receiver's matching function. The constants' VALUES stand in Sys2Proof/Machine/Dialects.lean. -/

namespace Sys2Proof

/-- The dialect that the strap `DSEL` selects (00_scope.md R4, 10_state.md R11). -/
inductive Dialect where
  | A
  | B
deriving DecidableEq, Repr

/-- One pulse pair: an active (mark) duration and the inactive (space) duration after it (00_scope.md R9, 10_state.md R21;
log 19). -/
structure Pulse where
  mark : Micros
  space : Micros
deriving DecidableEq, Repr

/-- The Variant Configuration `CFG`: the record of one dialect's constants (10_state.md R12). The two temperature
formulas `TENC` and `TDEC` of the same table are functions, in Sys2Proof/Machine/Dialects.lean. -/
structure DialectTable where
  hdrMark : Micros
  hdrSpace : Micros
  bitMark : Micros
  oneSpace : Micros
  zeroSpace : Micros
  seed : Byte
  ident : Byte
  pwrOn : BitVec 1
  fill : BitVec 1
  symInv : Bool
  trailer : Bool
  carrierHz : Nat
deriving DecidableEq, Repr

/-- The receiver's function `MATCH` (00_scope.md R5) as plain data: the (observed, nominal) pairs that it accepts
beside the equal ones. A table says every `MATCH` over 16-bit durations that has the required property P-REFL, and
says nothing else (DESIGN CHOICE, safe; log 2). -/
structure Matcher where
  pairs : List (Pulse × Pulse)
deriving DecidableEq, Repr

/-- The exact matcher `om = nm and os = ns`, the one every test vector of the spec uses (00_scope.md R5). -/
def Matcher.exact : Matcher := ⟨[]⟩

/-- What the host sees in byte `i` of `BUF` while nothing has written that byte since reset: a free value, for the spec
promises nothing about the bits (70_reset_and_hazards.md R211) and lets the host read any byte (10_state.md R27; DESIGN
CHOICE, log 8). -/
opaque unwrittenByte (i : Nat) : Byte

end Sys2Proof
end

