-- ==== Sys2Proof/Syntax.lean ====
section
/-! DEFINITION. The 23 operations, the Command that they take and give back, and what the outside parties can do
to the block between operations. -/

namespace Sys2Proof

/-- The operations of 30_encoding.md R66, one constructor per row. The one format OP8 has no operand fields:
operands come from `CMD`, `BUF`, `RXQ` and `DSEL`. -/
inductive Instr where
  | pnew
  | pack
  | unpack
  | setid
  | setpwr
  | setmode
  | setfan
  | setswing
  | settemp
  | getid
  | getpwr
  | getmode
  | getfan
  | getswing
  | gettemp
  | getcsum
  | csumc
  | csumw
  | csumv
  | encode
  | demod
  | validate
  | decode
deriving DecidableEq, Repr

/-- The pseudo-operations of 30_encoding.md R72: fixed expansions, no `OP` codes. -/
inductive Pseudo where
  | transmit
  | receive
  | finalize
deriving DecidableEq, Repr

/-- The five fields of a Command, as raw codes, with the widths of 10_state.md R13. -/
structure Command where
  power : Bool
  mode : BitVec 3
  fan : BitVec 4
  swing : BitVec 3
  temp : Byte
deriving DecidableEq, Repr

/-- The meaning of a raw mode code, `invalid` among them (40_payload_codec.md R107). -/
inductive ModeName where
  | auto
  | cool
  | dry
  | fan
  | invalid
deriving DecidableEq, Repr

/-- The meaning of a raw swing code (40_payload_codec.md R107). -/
inductive SwingName where
  | on
  | off
  | invalid
deriving DecidableEq, Repr

/-- The meaning of a raw fan-speed code (40_payload_codec.md R107). -/
inductive FanName where
  | auto
  | high
  | mid
  | low
  | invalid
deriving DecidableEq, Repr

/-- The seven fields of `RES` (10_state.md R19). -/
inductive ResField where
  | ident
  | power
  | mode
  | fan
  | swing
  | temp
  | csum
deriving DecidableEq, Repr

/-- What the host can read (10_state.md R27). -/
inductive HostReg where
  | dsel
  | cmd
  | bufByte (i : Nat)
  | sum
  | csok
  | res (f : ResField)
  | err
  | fsm
  | pos
  | txq
  | rxq
deriving DecidableEq, Repr

/-- One thing an outside party does to the block: the entries of the one total order in which host, receiver and
transmitter accesses stand with the operations (20_memory.md R50, 10_state.md R27, 30_encoding.md R71). -/
inductive Event where
  /-- The host presents the 8-bit code `OP` of an operation. -/
  | operation (op : Byte)
  /-- The host writes all five fields of `CMD`. -/
  | hostWriteCmd (c : Command)
  /-- The host writes one byte of `BUF`. -/
  | hostWriteBuf (i : Nat) (v : Byte)
  /-- The host reads a register. -/
  | hostRead (r : HostReg)
  /-- The receiver writes the whole captured sequence. -/
  | receiverWriteRxq (q : List Pulse)
  /-- The transmitter reads the outbound sequence. -/
  | transmitterReadTxq
  /-- Reset, with the strap it samples. -/
  | reset (strap : Dialect)
deriving DecidableEq, Repr

end Sys2Proof
end

