-- ==== Sys2Proof/WellFormed.lean ====
section
/-! DEFINITION. Which terms of Sys2Proof/Syntax.lean name something the spec has. An operation has no operands, so
each is well formed; an event is well formed when the code or the buffer index it carries exists. -/

namespace Sys2Proof

/-- Every operation is well formed: the format OP8 has no operand field that could hold an illegal value
(30_encoding.md R66). -/
def Instr.wf : Instr → Bool
  | .pnew | .pack | .unpack | .setid | .setpwr | .setmode | .setfan | .setswing | .settemp | .getid | .getpwr
  | .getmode | .getfan | .getswing | .gettemp | .getcsum | .csumc | .csumw | .csumv | .encode | .demod
  | .validate | .decode => true

/-- The codes that the table of 30_encoding.md R66 assigns; the other 233 are reserved (R67). -/
def opCodeAssigned (op : Byte) : Bool :=
  (0x10#8 ≤ op && op ≤ 0x22#8) || op == 0x30#8 || (0x40#8 ≤ op && op ≤ 0x42#8)

/-- An index of the 13-byte buffer (20_memory.md R40, R41). -/
def bufIndexExists (i : Nat) : Bool := i < 13

/-- An event that names an assigned code and an existing buffer byte. -/
def Event.wf : Event → Bool
  | .operation op => opCodeAssigned op
  | .hostWriteBuf i _ => bufIndexExists i
  | .hostRead (.bufByte i) => bufIndexExists i
  | .hostRead _ | .hostWriteCmd _ | .receiverWriteRxq _ | .transmitterReadTxq | .reset _ => true

end Sys2Proof
end

