-- ==== Sys2Proof/Decode.lean ====
section
/-! DEFINITION. From an 8-bit code to an operation and back (30_encoding.md R66, R67), and the expansions of the
pseudo-operations (R72). -/

namespace Sys2Proof

/-- Why bytes name no operation. -/
inductive DecodeReject where
  /-- The code is one of the 233 reserved ones (30_encoding.md R67). -/
  | reservedCode (op : Byte)
  /-- There is no byte to read. -/
  | noBytes
deriving DecidableEq, Repr

/-- The table of 30_encoding.md R66, row by row. -/
def opTable : List (Byte × Instr) :=
  [(0x10#8, .pnew), (0x11#8, .pack), (0x12#8, .unpack), (0x13#8, .setid), (0x14#8, .setpwr), (0x15#8, .setmode),
   (0x16#8, .setfan), (0x17#8, .setswing), (0x18#8, .settemp), (0x19#8, .getid), (0x1A#8, .getpwr),
   (0x1B#8, .getmode), (0x1C#8, .getfan), (0x1D#8, .getswing), (0x1E#8, .gettemp), (0x1F#8, .getcsum)]
  ++ [(0x20#8, .csumc), (0x21#8, .csumw), (0x22#8, .csumv)]
  ++ [(0x30#8, .encode)]
  ++ [(0x40#8, .demod), (0x41#8, .validate), (0x42#8, .decode)]

/-- The operation that a code names, or the refusal of a reserved code (30_encoding.md R66, R67). -/
def decodeOp (op : Byte) : Except DecodeReject Instr :=
  match opTable.find? (fun row => row.1 == op) with
  | some row => .ok row.2
  | none => .error (.reservedCode op)

/-- The first operation of a byte sequence, with the bytes after it: an encoded program is the sequence of its `OP`
bytes (30_encoding.md R71). -/
def decodeBytes : List Byte → Except DecodeReject (Instr × List Byte)
  | [] => .error .noBytes
  | op :: rest => (decodeOp op).map (fun i => (i, rest))

/-- The code of an operation (30_encoding.md R66). -/
def encodeOp : Instr → Byte
  | .pnew => 0x10#8
  | .pack => 0x11#8
  | .unpack => 0x12#8
  | .setid => 0x13#8
  | .setpwr => 0x14#8
  | .setmode => 0x15#8
  | .setfan => 0x16#8
  | .setswing => 0x17#8
  | .settemp => 0x18#8
  | .getid => 0x19#8
  | .getpwr => 0x1A#8
  | .getmode => 0x1B#8
  | .getfan => 0x1C#8
  | .getswing => 0x1D#8
  | .gettemp => 0x1E#8
  | .getcsum => 0x1F#8
  | .csumc => 0x20#8
  | .csumw => 0x21#8
  | .csumv => 0x22#8
  | .encode => 0x30#8
  | .demod => 0x40#8
  | .validate => 0x41#8
  | .decode => 0x42#8

/-- The bytes of an operation: one `OP` byte. -/
def encodeBytes (i : Instr) : List Byte := [encodeOp i]

/-- The operations that a pseudo-operation stands for (30_encoding.md R72). -/
def expandPseudo : Pseudo → List Instr
  | .transmit => [.pack, .csumw, .encode]
  | .receive => [.decode]
  | .finalize => [.csumw]

/-- The byte that an instruction of `nbits` bits `w` puts first. -/
def firstByte (nbits w : Nat) : Byte := BitVec.ofNat 8 (w % 2 ^ nbits)

/-- The operation that the decoder reads from the bits `w`, numbered as spec/opcode_table.json numbers them. -/
def decodeTableWord (nbits w : Nat) : Option Instr :=
  match decodeBytes [firstByte nbits w] with
  | .ok (i, _) => some i
  | .error _ => none

end Sys2Proof
end

