-- ==== Sys2Proof/Machine/Bits.lean ====
section
/-! DEFINITION. The bit-field primitives of 00_scope.md R8 and the wire order of the buffer's bits. -/

namespace Sys2Proof.Machine

/-- `ext(b, off, w)`: the field of width `w` at offset `off`, `(b >> off) & (2^w - 1)` (00_scope.md R8). -/
def ext (b : Byte) (off w : Nat) : BitVec w := (b >>> off).setWidth w

/-- The bits that a field of width `w` at offset `off` occupies. -/
def fieldMask (off w : Nat) : Byte := (BitVec.allOnes w).setWidth 8 <<< off

/-- `ins(b, off, w, v)`: `b` with the field of width `w` at offset `off` replaced by `v` (00_scope.md R8). -/
def ins {w : Nat} (b : Byte) (off : Nat) (v : BitVec w) : Byte :=
  (b &&& ~~~(fieldMask off w)) ||| ((v.setWidth 8 <<< off) &&& fieldMask off w)

/-- `bit(b, n)`: the bit that the `n`-th bit pulse carries, byte 0 first and the least significant bit of each byte
first (42_timing_encoder.md R142, 20_memory.md R42). -/
def wireBit (b : Nat → Byte) (n : Nat) : Bool := (b (n / 8)).getLsbD (n % 8)

end Sys2Proof.Machine
end

