-- ==== Sys2Proof/Machine/Dialects.lean ====
section
/-! DEFINITION. The values of the dialect table (10_state.md R12), the temperature formulas (30_encoding.md R63), the
nominal pulse pairs, and the receiver's matching function on its table. -/

namespace Sys2Proof.Machine

/-- `CFG`: the constants of each dialect (10_state.md R12). -/
def cfg : Dialect → DialectTable
  | .A =>
    { hdrMark := 8968, hdrSpace := 4425, bitMark := 600, oneSpace := 1650, zeroSpace := 500, seed := 0x00,
      ident := 0xC3, pwrOn := 1, fill := 0, symInv := false, trailer := true, carrierHz := 38000 }
  | .B =>
    { hdrMark := 9166, hdrSpace := 4470, bitMark := 646, oneSpace := 1647, zeroSpace := 547, seed := 0x0B,
      ident := 0x3C, pwrOn := 0, fill := 1, symInv := true, trailer := false, carrierHz := 38000 }

/-- The strap's encoding (10_state.md R11). -/
def dselCode : Dialect → BitVec 1
  | .A => 0
  | .B => 1

/-- `CFG.TENC`: the field value stored for a clamped temperature (10_state.md R12). -/
def tenc : Dialect → Nat → Nat
  | .A, t => t - 8
  | .B, t => 39 - t

/-- `CFG.TDEC`: the temperature read from a stored field value (10_state.md R12). -/
def tdec : Dialect → Nat → Nat
  | .A, s => 8 + s
  | .B, s => 39 - s

/-- `clampT`: the clamp to [16, 32] (00_scope.md R8). -/
def clampT (t : Nat) : Nat := if t < 16 then 16 else if 32 < t then 32 else t

/-- `fill_byte` (00_scope.md R8). -/
def fillByte (d : Dialect) : Byte := if (cfg d).fill = 0 then 0x00 else 0xFF

/-- The header's nominal pair (42_timing_encoder.md R141). -/
def headerPulse (d : Dialect) : Pulse := ⟨(cfg d).hdrMark, (cfg d).hdrSpace⟩

/-- The one-symbol (30_encoding.md R64). -/
def onePulse (d : Dialect) : Pulse := ⟨(cfg d).bitMark, (cfg d).oneSpace⟩

/-- The zero-symbol (30_encoding.md R64). -/
def zeroPulse (d : Dialect) : Pulse := ⟨(cfg d).bitMark, (cfg d).zeroSpace⟩

/-- The trailer pair, whose space is the header's mark duration (42_timing_encoder.md R144). -/
def trailerPulse (d : Dialect) : Pulse := ⟨(cfg d).bitMark, (cfg d).hdrMark⟩

/-- `MATCH(om, os, nm, ns)` of a matching table: an observed pair matches the nominal pair when the two are equal
(P-REFL) or the table lists them (00_scope.md R5; log 2). -/
def pulseMatches (m : Matcher) (observed nominal : Pulse) : Bool :=
  observed == nominal || m.pairs.contains (observed, nominal)

end Sys2Proof.Machine
end

