-- ==== Sys2Proof/Machine/State.lean ====
section
/-! DEFINITION. The registers of the block (10_state.md), what may stop a step, and the state right after reset. -/

namespace Sys2Proof.Machine

/-- The field that `FieldInvalid` names (10_state.md R20). -/
inductive FieldName where
  | mode
  | swing
  | fanSpeed
deriving DecidableEq, Repr

/-- The values of `ERR` (10_state.md R20): `none` is the spec's `None`. -/
inductive Reason where
  | none
  | headerMismatch
  | truncatedMessage
  | identityMismatch
  | fieldInvalid (f : FieldName)
  | checksumMismatch
deriving DecidableEq, Repr

/-- The 108 values of `FSM` (10_state.md R24). -/
inductive Fsm where
  | awaitHeader
  | readingBits (byteIndex : Fin 13) (bitIndex : Fin 8)
  | validating
  | accepted
  | rejected
deriving DecidableEq, Repr

/-- The seven fields of `RES` (10_state.md R19). -/
structure Result where
  ident : Byte
  power : Bool
  mode : BitVec 3
  fan : BitVec 4
  swing : BitVec 3
  temp : Byte
  csum : Byte
deriving DecidableEq, Repr

/-- Which registers have been written since reset (70_reset_and_hazards.md R211, 40_payload_codec.md R90): `CMD`,
`SUM` and each field of `RES`. A byte of `BUF` has been written when it is listed in the memory. -/
structure Written where
  cmd : Bool
  sum : Bool
  ident : Bool
  power : Bool
  mode : Bool
  fan : Bool
  swing : Bool
  temp : Bool
  csum : Bool
deriving DecidableEq, Repr

/-- The memory: the bytes of `BUF` that hold a value, by index, in rising order (20_memory.md R40). -/
abbrev Memory := List Host.Cell

/-- The state of one instance: the registers of 10_state.md, the receiver's `MATCH` table (00_scope.md R5; log 2) and
what the outside parties do next (20_memory.md R50; log 1). -/
structure State where
  dsel : Dialect
  matcher : Matcher
  cmd : Command
  buf : Memory
  sum : Byte
  csok : Bool
  res : Result
  written : Written
  err : Reason
  txq : List Pulse
  rxq : List Pulse
  pos : Nat
  fsm : Fsm
  pending : List Event
deriving DecidableEq, Repr

/-- No rule of the spec stops the block with a fault: a rejection is a next state (60_exceptions.md R180, R190) and
what has no defined behaviour is refused (R202). No step raises one (DEDUCED, safe; log 17). -/
inductive Fault where
deriving DecidableEq, Repr

/-- Why the block performs no operation. Every refusal is safe: the spec promises no effect there. -/
inductive Refusal where
  /-- An operation whose meaning is not written yet; raised by `exec` alone (safe). -/
  | notModelled (mnemonic : String)
  /-- A reserved `OP` code (30_encoding.md R67, 60_exceptions.md R202); raised by issuing an operation (safe). -/
  | reservedOpCode (op : Byte)
  /-- The host has not written `CMD` since reset: the spec says that an operation which reads `CMD` is then refused
  (40_payload_codec.md R90) and has no defined behaviour (60_exceptions.md R202, 93_implementation_defined.md U9; the
  expected result in 95_test_vectors.md V9); raised by `PACK`, `SETPWR`, `SETMODE`, `SETFAN`, `SETSWING` and `SETTEMP`
  (safe). -/
  | cmdHasNoValue
  /-- Byte `i` of `BUF` has not been written since reset (40_payload_codec.md R90, 60_exceptions.md R202); raised by an
  operation that reads it (safe). -/
  | bufByteHasNoValue (i : Nat)
  /-- The host accesses `BUF` at an index above 12 (20_memory.md R41); raised by a host read or write (safe). -/
  | bufIndexOutOfRange (i : Nat)
deriving DecidableEq, Repr

/-- The three outcomes of a step of this machine. -/
abbrev Outcome := Host.Outcome State Fault Refusal

/-- The state right after reset with dialect `strap` strapped, under the matching table `m` (10_state.md R29,
70_reset_and_hazards.md R210). `CMD`, `SUM` and `RES` hold no value there: their bits are 0 (DESIGN CHOICE; logs 4, 5,
6) and `written` says that nothing has written them. -/
def State.resetWith (strap : Dialect) (m : Matcher) : State where
  dsel := strap
  matcher := m
  cmd := { power := false, mode := 0, fan := 0, swing := 0, temp := 0 }
  buf := []
  sum := 0
  csok := false
  res := { ident := 0, power := false, mode := 0, fan := 0, swing := 0, temp := 0, csum := 0 }
  written :=
    { cmd := false, sum := false, ident := false, power := false, mode := false, fan := false, swing := false,
      temp := false, csum := false }
  err := .none
  txq := []
  rxq := []
  pos := 0
  fsm := .awaitHeader
  pending := []

/-- The machine right after reset: Dialect A strapped and the exact matcher (DESIGN CHOICE; logs 2, 3). -/
def State.reset : State := State.resetWith .A Matcher.exact

end Sys2Proof.Machine
end

