-- ==== Sys2Proof/Machine/Ops.lean ====
section
/-! DEFINITION. The operations that every meaning is made of: reading and writing the buffer, writing a register,
sequencing, and what a rejection does to the state. -/

namespace Sys2Proof.Machine

/-! ## The buffer as memory -/

/-- The bytes of one whole Payload. -/
abbrev Payload := Vector Byte 13

/-- What a byte of `BUF` that nothing has written holds: no value (70_reset_and_hazards.md R210, R211; log 7). -/
def Memory.unlisted : Option Byte := none

/-- `BUF[a]`. -/
def Memory.read : Memory → Nat → Option Byte
  | [], _ => Memory.unlisted
  | (k, v) :: m, a => if k = a then some v else Memory.read m a

/-- `BUF[a] <- v`, keeping the addresses in rising order. -/
def Memory.write : Memory → Nat → Byte → Memory
  | [], a, v => [(a, v)]
  | (k, w) :: m, a, v =>
    if a < k then (a, v) :: (k, w) :: m
    else if a = k then (a, v) :: m
    else (k, w) :: Memory.write m a v

/-- The canonical form: addresses strictly rising and inside 0..12 (20_memory.md R40). -/
def Memory.wf (m : Memory) : Bool :=
  decide (m.Pairwise (fun x y => x.1 < y.1)) && m.all (fun c => decide (c.1 < 13))

/-- A buffer all of whose 13 bytes are given. -/
def Memory.ofPayload (p : Payload) : Memory := (List.finRange 13).map (fun i => (i.val, p[i]))

/-- The Payload whose every byte is `b`. -/
def payloadOf (b : Byte) : Payload := Vector.replicate 13 b

/-- The 13 indices of the buffer. -/
def allBytes : List Nat := List.range 13

/-- The 12 indices that the checksum sums (41_checksum.md R130). -/
def summedBytes : List Nat := List.range 12

/-! ## Sequencing -/

/-- `k` after `o`: a fault or a refusal ends the sequence. -/
def andThen (o : Outcome) (k : State → Outcome) : Outcome :=
  match o with
  | .next s => k s
  | .fault r => .fault r
  | .refused r => .refused r

/-! ## Operand availability (40_payload_codec.md R90) -/

/-- Go on with the buffer's bytes when every byte of `idx` has been written since reset; otherwise the operation is
refused. `k` gets the byte at each index of `idx`; it looks at no other (R90; logs 10, 11). -/
def withBytes (idx : List Nat) (s : State) (k : (Nat → Byte) → Outcome) : Outcome :=
  match idx.find? (fun i => (s.buf.read i).isNone) with
  | some i => .refused (.bufByteHasNoValue i)
  | none => k (fun i => (s.buf.read i).getD 0)

/-- Go on with `CMD` when the host has written it since reset; otherwise the operation is refused (R90, R202, U9, V9). -/
def withCmd (s : State) (k : Command → Outcome) : Outcome :=
  if s.written.cmd then k s.cmd else .refused .cmdHasNoValue

/-! ## Register writes -/

/-- The buffer becomes `m`. -/
def State.setBuf (s : State) (m : Memory) : State := { s with buf := m }

/-- The host's write of all five fields of `CMD` (10_state.md R13). -/
def State.setCmd (s : State) (c : Command) : State := { s with cmd := c, written := { s.written with cmd := true } }

/-- `SUM <- v` (10_state.md R17). -/
def State.setSum (s : State) (v : Byte) : State := { s with sum := v, written := { s.written with sum := true } }

/-- `CSOK <- v` (10_state.md R18). -/
def State.setCsok (s : State) (v : Bool) : State := { s with csok := v }

/-- `ERR <- r` (10_state.md R20). -/
def State.setErr (s : State) (r : Reason) : State := { s with err := r }

/-- `fsm <- f` (10_state.md R24). -/
def State.setFsm (s : State) (f : Fsm) : State := { s with fsm := f }

/-- `POS <- n` (10_state.md R23). -/
def State.setPos (s : State) (n : Nat) : State := { s with pos := n }

/-- `TXQ <- q` (10_state.md R21). -/
def State.setTxq (s : State) (q : List Pulse) : State := { s with txq := q }

/-- `RXQ <- q` (10_state.md R22). -/
def State.setRxq (s : State) (q : List Pulse) : State := { s with rxq := q }

/-- What the outside parties do next (log 1). -/
def State.setPending (s : State) (es : List Event) : State := { s with pending := es }

/-- `RES.ident <- v` (10_state.md R19). -/
def State.setResIdent (s : State) (v : Byte) : State :=
  { s with res := { s.res with ident := v }, written := { s.written with ident := true } }

/-- `RES.power <- v` (10_state.md R19). -/
def State.setResPower (s : State) (v : Bool) : State :=
  { s with res := { s.res with power := v }, written := { s.written with power := true } }

/-- `RES.mode <- v` (10_state.md R19). -/
def State.setResMode (s : State) (v : BitVec 3) : State :=
  { s with res := { s.res with mode := v }, written := { s.written with mode := true } }

/-- `RES.fan <- v` (10_state.md R19). -/
def State.setResFan (s : State) (v : BitVec 4) : State :=
  { s with res := { s.res with fan := v }, written := { s.written with fan := true } }

/-- `RES.swing <- v` (10_state.md R19). -/
def State.setResSwing (s : State) (v : BitVec 3) : State :=
  { s with res := { s.res with swing := v }, written := { s.written with swing := true } }

/-- `RES.temp <- v` (10_state.md R19). -/
def State.setResTemp (s : State) (v : Byte) : State :=
  { s with res := { s.res with temp := v }, written := { s.written with temp := true } }

/-- `RES.csum <- v` (10_state.md R19). -/
def State.setResCsum (s : State) (v : Byte) : State :=
  { s with res := { s.res with csum := v }, written := { s.written with csum := true } }

/-- The five Command fields of `RES`, written together (10_state.md R19). -/
def State.setResCommand (s : State) (c : Command) : State :=
  ((((s.setResPower c.power).setResMode c.mode).setResFan c.fan).setResSwing c.swing).setResTemp c.temp

/-! ## Rejection (60_exceptions.md R180, R190) -/

/-- `raise Reject(reason)` in `DEMOD`, `VALIDATE` and `DECODE`: `FSM <- Rejected; ERR <- reason`. Nothing is saved
and control goes nowhere (60_exceptions.md R190). -/
def raiseReject (r : Reason) (s : State) : State := (s.setErr r).setFsm .rejected

/-- The same inside `UNPACK`, which does not touch `FSM`: `ERR <- reason` only (60_exceptions.md R190). -/
def raiseUnpackReject (r : Reason) (s : State) : State := s.setErr r

/-- How `DEMOD` and `DECODE` leave the last attempt behind; there is no return operation, a new attempt resets the
registers itself (60_exceptions.md R192, 43_timing_decoder.md R151). -/
def beginAttempt (s : State) : State :=
  (((s.setBuf (Memory.ofPayload (payloadOf (fillByte s.dsel)))).setErr .none).setPos 0).setFsm .awaitHeader

end Sys2Proof.Machine
end

