-- ==== Sys2Proof/Machine/Operands.lean ====
section
/-! DEFINITION. The fields of the Payload (20_memory.md R46), how each is read and written (30_encoding.md R73), and
the classification of the enumerated codes (40_payload_codec.md R107). -/

namespace Sys2Proof.Machine

/-! ## The buffer map (20_memory.md R46) -/

/-- The byte that holds the identity. -/
def identByte : Nat := 0
/-- The byte that holds the swing code and the temperature. -/
def swingTempByte : Nat := 1
/-- The byte that holds the fan-speed code. -/
def fanByte : Nat := 4
/-- The byte that holds the mode code. -/
def modeByte : Nat := 6
/-- The byte that holds the power bit. -/
def powerByte : Nat := 9
/-- The byte that holds the checksum. -/
def csumByte : Nat := 12

/-- The seven fields of the Payload as (byte, offset, width) (20_memory.md R46). -/
def payloadLayout : List (Nat × Nat × Nat) :=
  [(identByte, 0, 8), (swingTempByte, 0, 3), (swingTempByte, 3, 5), (fanByte, 0, 4), (modeByte, 0, 3),
   (powerByte, 5, 1), (csumByte, 0, 8)]

/-- Whether bit `k` of byte `i` belongs to no field (20_memory.md R46, R47). -/
def reservedBit (i k : Nat) : Bool := !payloadLayout.any (fun f => f.1 == i && f.2.1 ≤ k && k < f.2.1 + f.2.2)

/-! ## Classification of the enumerated codes (40_payload_codec.md R107) -/

/-- `decode_mode`. -/
def decodeMode (m : BitVec 3) : ModeName :=
  if m = 0x7 then .auto else if m = 0x6 then .cool else if m = 0x5 then .dry else if m = 0x1 then .fan else .invalid

/-- `decode_swing`. -/
def decodeSwing (s : BitVec 3) : SwingName :=
  if s = 0x7 then .on else if s = 0x0 then .off else .invalid

/-- `decode_fan`. -/
def decodeFan (f : BitVec 4) : FanName :=
  if f = 0x5 then .auto else if f = 0xD then .high else if f = 0xB then .mid else if f = 0x9 then .low else .invalid

/-- `mode_legal`. -/
def modeLegal (m : BitVec 3) : Bool := decodeMode m != .invalid
/-- `swing_legal`. -/
def swingLegal (s : BitVec 3) : Bool := decodeSwing s != .invalid
/-- `fan_legal`. -/
def fanLegal (f : BitVec 4) : Bool := decodeFan f != .invalid

/-- A Command whose enum fields are all in their legal sets. -/
def Command.legalEnums (c : Command) : Bool := modeLegal c.mode && swingLegal c.swing && fanLegal c.fan

/-- A legal Command (10_state.md R14). -/
def Command.legal (c : Command) : Bool :=
  Command.legalEnums c && decide (16 ≤ c.temp.toNat) && decide (c.temp.toNat ≤ 32)

/-! ## The written value of a field (30_encoding.md R73) -/

/-- The power bit of a semantic power value under the dialect's polarity (30_encoding.md R61). -/
def powerBit (d : Dialect) (power : Bool) : BitVec 1 := if power then (cfg d).pwrOn else 1 - (cfg d).pwrOn

/-- The stored temperature: the clamp first, then the dialect's formula (30_encoding.md R63). -/
def tempField (d : Dialect) (temp : Byte) : BitVec 5 := BitVec.ofNat 5 (tenc d (clampT temp.toNat))

/-- Byte 9 with the power bit written. -/
def putPower (d : Dialect) (power : Bool) (b : Byte) : Byte := ins b 5 (powerBit d power)
/-- Byte 6 with the mode written. -/
def putMode (m : BitVec 3) (b : Byte) : Byte := ins b 0 m
/-- Byte 4 with the fan speed written. -/
def putFan (f : BitVec 4) (b : Byte) : Byte := ins b 0 f
/-- Byte 1 with the swing written. -/
def putSwing (v : BitVec 3) (b : Byte) : Byte := ins b 0 v
/-- Byte 1 with the temperature written. -/
def putTemp (d : Dialect) (temp : Byte) (b : Byte) : Byte := ins b 3 (tempField d temp)

/-- A field write to byte `i` of the buffer: the byte is read, changed by `f` and written back (20_memory.md R48). -/
def modifyByte (i : Nat) (f : Byte → Byte) (s : State) : Outcome :=
  withBytes [i] s fun b => .next (s.setBuf (s.buf.write i (f (b i))))

/-- A whole-byte write to byte `i` of the buffer, which reads nothing (40_payload_codec.md R92). -/
def writeByte (i : Nat) (v : Byte) (s : State) : State := s.setBuf (s.buf.write i v)

/-- Construction of an empty Payload: every bit takes the fill (40_payload_codec.md R91). -/
def fillBuffer (s : State) : State := s.setBuf (Memory.ofPayload (payloadOf (fillByte s.dsel)))

/-! ## The read value of a field (30_encoding.md R73) -/

/-- The semantic power value of byte 9 (40_payload_codec.md R100). -/
def powerOf (d : Dialect) (byte9 : Byte) : Bool := ext byte9 5 1 == (cfg d).pwrOn
/-- The raw mode code of byte 6 (40_payload_codec.md R101). -/
def modeOf (byte6 : Byte) : BitVec 3 := ext byte6 0 3
/-- The raw fan-speed code of byte 4 (40_payload_codec.md R102). -/
def fanOf (byte4 : Byte) : BitVec 4 := ext byte4 0 4
/-- The raw swing code of byte 1 (40_payload_codec.md R103). -/
def swingOf (byte1 : Byte) : BitVec 3 := ext byte1 0 3
/-- The decoded temperature of byte 1, with no clamp (40_payload_codec.md R104). -/
def tempOf (d : Dialect) (byte1 : Byte) : Byte := BitVec.ofNat 8 (tdec d (ext byte1 3 5).toNat)

/-- The Command that a buffer's fields say, whether legal or not (40_payload_codec.md R106). -/
def commandOf (d : Dialect) (b : Nat → Byte) : Command where
  power := powerOf d (b powerByte)
  mode := modeOf (b modeByte)
  fan := fanOf (b fanByte)
  swing := swingOf (b swingTempByte)
  temp := tempOf d (b swingTempByte)

/-- The first of the four checks of `UNPACK` and `VALIDATE` that fails, in the order identity, mode, swing, fan speed
(40_payload_codec.md R106, 43_timing_decoder.md R161 to R165, 60_exceptions.md R189). -/
def firstFieldFailure (d : Dialect) (b : Nat → Byte) : Option Reason :=
  if b identByte ≠ (cfg d).ident then some .identityMismatch
  else if !modeLegal (modeOf (b modeByte)) then some (.fieldInvalid .mode)
  else if !swingLegal (swingOf (b swingTempByte)) then some (.fieldInvalid .swing)
  else if !fanLegal (fanOf (b fanByte)) then some (.fieldInvalid .fanSpeed)
  else none

end Sys2Proof.Machine
end

