-- ==== Sys2Proof/Machine/Flags.lean ====
section
/-! DEFINITION. The checksum and the flags: `SUM`, `CSOK`, the codes of `ERR` and the validation cascade that sets
`FSM` (41_checksum.md, 43_timing_decoder.md R161, 10_state.md R20). -/

namespace Sys2Proof.Machine

/-- The sum of bytes modulo 256, starting from `seed`; carries out of bit 7 are discarded (41_checksum.md R130). -/
def sumBytes (seed : Byte) (bytes : List Byte) : Byte := bytes.foldl (· + ·) seed

/-- `compute(b, seed)`: the sum of all bytes but the last (41_checksum.md R130). -/
def compute (b : List Byte) (seed : Byte) : Byte := sumBytes seed b.dropLast

/-- `compute(BUF, CFG.SEED)`, which reads bytes 0 to 11 of the buffer and never byte 12 (41_checksum.md R130). -/
def checksumOf (d : Dialect) (b : Nat → Byte) : Byte := sumBytes (cfg d).seed (summedBytes.map b)

/-- `SUM <- compute(BUF, CFG.SEED); CSOK <- (SUM = BUF[12])` (41_checksum.md R133, 43_timing_decoder.md R161). -/
def compareChecksum (b : Nat → Byte) (s : State) : State :=
  (s.setSum (checksumOf s.dsel b)).setCsok (checksumOf s.dsel b == b csumByte)

/-- The numeric code of a reason (10_state.md R20, 60_exceptions.md R181). -/
def reasonCode : Reason → Nat
  | .none => 0
  | .headerMismatch => 1
  | .truncatedMessage => 2
  | .identityMismatch => 3
  | .fieldInvalid .mode => 4
  | .fieldInvalid .swing => 5
  | .fieldInvalid .fanSpeed => 6
  | .checksumMismatch => 7

/-- The `Validating` state's cascade on the buffer's bytes, ending in `Accepted` or `Rejected`
(43_timing_decoder.md R161 to R167). -/
def runCascade (b : Nat → Byte) (s : State) : State :=
  let v := s.setFsm .validating
  match firstFieldFailure v.dsel b with
  | some r => raiseReject r v
  | none =>
    let c := compareChecksum b v
    if c.csok then ((c.setResCommand (commandOf c.dsel b)).setErr .none).setFsm .accepted
    else raiseReject .checksumMismatch c

end Sys2Proof.Machine
end

