-- ==== Sys2Proof/Machine/Checksum.lean ====
section
/-! DEFINITION. The three checksum operations (41_checksum.md). -/

namespace Sys2Proof.Machine

/-- `CSUMC` (41_checksum.md R131): byte 12 is neither read nor written. -/
def execCsumc (s : State) : Outcome := withBytes summedBytes s fun b => .next (s.setSum (checksumOf s.dsel b))

/-- `CSUMW` (41_checksum.md R132). -/
def execCsumw (s : State) : Outcome :=
  withBytes summedBytes s fun b =>
    .next (writeByte csumByte (checksumOf s.dsel b) (s.setSum (checksumOf s.dsel b)))

/-- `CSUMV` (41_checksum.md R133): it reports in `CSOK` and rejects nothing. -/
def execCsumv (s : State) : Outcome := withBytes allBytes s fun b => .next (compareChecksum b s)

end Sys2Proof.Machine
end

