-- ==== Sys2Proof/Machine/Decoder.lean ====
section
/-! DEFINITION. The timing decoder and the frame validator (43_timing_decoder.md). -/

namespace Sys2Proof.Machine

/-- The registers that demodulation works on: the state of the machine, the cursor and the buffer, which the fill has
made whole (43_timing_decoder.md R150, R151; log 12). -/
structure Decoder where
  fsm : Fsm
  pos : Nat
  payload : Payload
deriving DecidableEq, Repr

/-- One step of demodulation: it goes on, or it is rejected with a reason and leaves its registers as they stand. -/
inductive DecoderStep where
  | goOn (d : Decoder)
  | reject (r : Reason) (d : Decoder)
deriving DecidableEq, Repr

/-- The symbol that a pulse is: `true` the one-symbol, `false` the zero-symbol, `none` neither. The one-symbol is
tried first (43_timing_decoder.md R154, R157). -/
def classifyPulse (d : Dialect) (m : Matcher) (p : Pulse) : Option Bool :=
  if pulseMatches m p (onePulse d) then some true
  else if pulseMatches m p (zeroPulse d) then some false
  else none

/-- The bit value of a symbol, `sym xor SYM_INV` (43_timing_decoder.md R158). -/
def symbolBit (d : Dialect) (sym : Bool) : Bool := sym ^^ (cfg d).symInv

/-- The state after the bit at `(i, j)` has been read (43_timing_decoder.md R155, R156). -/
def afterBit (i : Fin 13) (j : Fin 8) : Fsm :=
  if hj : j.val < 7 then .readingBits i ⟨j.val + 1, by omega⟩
  else if hi : i.val < 12 then .readingBits ⟨i.val + 1, by omega⟩ 0
  else .validating

/-- `BUF[i] <- ins(BUF[i], j, 1, v)` (43_timing_decoder.md R155). -/
def putBit (p : Payload) (i : Fin 13) (j : Fin 8) (v : Bool) : Payload :=
  p.set i (ins p[i] j.val (BitVec.ofBool v))

/-- One transition of the state machine while it reads `RXQ` (43_timing_decoder.md R150, R152 to R156). -/
def decoderStep (d : Dialect) (m : Matcher) (rxq : List Pulse) (x : Decoder) : DecoderStep :=
  match x.fsm with
  | .awaitHeader =>
    match rxq[x.pos]? with
    | some p =>
      if pulseMatches m p (headerPulse d) then .goOn { x with pos := x.pos + 1, fsm := .readingBits 0 0 }
      else .reject .headerMismatch x
    | none => .reject .headerMismatch x
  | .readingBits i j =>
    match rxq[x.pos]? with
    | some p =>
      match classifyPulse d m p with
      | some sym =>
        .goOn { fsm := afterBit i j, pos := x.pos + 1, payload := putBit x.payload i j (symbolBit d sym) }
      | none => .reject .truncatedMessage x
    | none => .reject .truncatedMessage x
  | .validating | .accepted | .rejected => .goOn x

/-- At most `n` steps of demodulation, ending at the first rejection (43_timing_decoder.md R151). -/
def runDecoder (d : Dialect) (m : Matcher) (rxq : List Pulse) : Nat → Decoder → DecoderStep
  | 0, x => .goOn x
  | n + 1, x =>
    match decoderStep d m rxq x with
    | .goOn y => runDecoder d m rxq n y
    | .reject r y => .reject r y

/-- What demodulation starts from: the fill, no pulse consumed, `AwaitHeader` (43_timing_decoder.md R151). -/
def startDecoder (d : Dialect) : Decoder := { fsm := .awaitHeader, pos := 0, payload := payloadOf (fillByte d) }

/-- The registers of demodulation written back to the state. -/
def installDecoder (x : Decoder) (s : State) : State :=
  ((s.setBuf (Memory.ofPayload x.payload)).setPos x.pos).setFsm x.fsm

/-- Demodulation of `RXQ`: one header step and 104 bit steps (43_timing_decoder.md R151). -/
def demodulate (s : State) : State :=
  match runDecoder s.dsel s.matcher s.rxq 105 (startDecoder s.dsel) with
  | .goOn x => installDecoder x (beginAttempt s)
  | .reject r x => raiseReject r (installDecoder x (beginAttempt s))

/-- `DEMOD` (43_timing_decoder.md R151). -/
def execDemod (s : State) : Outcome := .next (demodulate s)

/-- `VALIDATE` (43_timing_decoder.md R161), on any written buffer and whatever `FSM` held. -/
def execValidate (s : State) : Outcome := withBytes allBytes s fun b => .next (runCascade b s)

/-- `DECODE` (43_timing_decoder.md R169): demodulation, then the cascade when all bits were read. -/
def execDecode (s : State) : Outcome :=
  let t := demodulate s
  if t.fsm = .validating then withBytes allBytes t fun b => .next (runCascade b t)
  else .next t

end Sys2Proof.Machine
end

