-- ==== Sys2Proof/Machine/Encoder.lean ====
section
/-! DEFINITION. The timing encoder (42_timing_encoder.md). -/

namespace Sys2Proof.Machine

/-- `symbol(cfg, v)`: the space is `ONE_SPACE` when `v xor SYM_INV = 1`, else `ZERO_SPACE` (42_timing_encoder.md R143). -/
def symbolPulse (d : Dialect) (v : Bool) : Pulse := if v ^^ (cfg d).symInv then onePulse d else zeroPulse d

/-- `trailer(cfg)` (42_timing_encoder.md R144). -/
def trailerPulses (d : Dialect) : List Pulse := if (cfg d).trailer then [trailerPulse d] else []

/-- `encode(b, cfg)`: the header, the 104 bit symbols, the trailer (42_timing_encoder.md R140). -/
def encodeFrame (d : Dialect) (b : Nat → Byte) : List Pulse :=
  [headerPulse d] ++ (List.range 104).map (fun n => symbolPulse d (wireBit b n)) ++ trailerPulses d

/-- The number of pulse pairs of a frame (30_encoding.md R65). -/
def frameLength : Dialect → Nat
  | .A => 106
  | .B => 105

/-- The air time of a pulse sequence in microseconds, the sum of its marks and spaces
(70_reset_and_hazards.md R230; for information, no operation reads it). -/
def airTime (q : List Pulse) : Nat := (q.map (fun p => p.mark.toNat + p.space.toNat)).sum

/-- `ENCODE` (42_timing_encoder.md R145): the buffer is sent as it stands and `TXQ` is replaced whole. -/
def execEncode (s : State) : Outcome := withBytes allBytes s fun b => .next (s.setTxq (encodeFrame s.dsel b))

end Sys2Proof.Machine
end

