-- ==== Sys2Proof/Machine/Payload.lean ====
section
/-! DEFINITION. The 16 payload operations (40_payload_codec.md). -/

namespace Sys2Proof.Machine

/-- `PNEW` (40_payload_codec.md R91). -/
def execPnew (s : State) : Outcome := .next (fillBuffer s)

/-- `SETID` (40_payload_codec.md R92): the only mutator that needs no earlier write of the buffer. -/
def execSetid (s : State) : Outcome := .next (writeByte identByte (cfg s.dsel).ident s)

/-- `SETPWR` (40_payload_codec.md R93). -/
def execSetpwr (s : State) : Outcome := withCmd s fun c => modifyByte powerByte (putPower s.dsel c.power) s

/-- `SETMODE` (40_payload_codec.md R94): the code is copied verbatim, legal or not (30_encoding.md R68). -/
def execSetmode (s : State) : Outcome := withCmd s fun c => modifyByte modeByte (putMode c.mode) s

/-- `SETFAN` (40_payload_codec.md R95). -/
def execSetfan (s : State) : Outcome := withCmd s fun c => modifyByte fanByte (putFan c.fan) s

/-- `SETSWING` (40_payload_codec.md R96). -/
def execSetswing (s : State) : Outcome := withCmd s fun c => modifyByte swingTempByte (putSwing c.swing) s

/-- `SETTEMP` (40_payload_codec.md R97). -/
def execSettemp (s : State) : Outcome := withCmd s fun c => modifyByte swingTempByte (putTemp s.dsel c.temp) s

/-- `PACK` (40_payload_codec.md R98): the sequence `PNEW`, `SETID`, `SETPWR`, `SETMODE`, `SETFAN`, `SETSWING`,
`SETTEMP`, then byte 12 is written with 0. -/
def execPack (s : State) : Outcome :=
  withCmd s fun c =>
    andThen (.next (writeByte identByte (cfg s.dsel).ident (fillBuffer s))) fun s =>
    andThen (modifyByte powerByte (putPower s.dsel c.power) s) fun s =>
    andThen (modifyByte modeByte (putMode c.mode) s) fun s =>
    andThen (modifyByte fanByte (putFan c.fan) s) fun s =>
    andThen (modifyByte swingTempByte (putSwing c.swing) s) fun s =>
    andThen (modifyByte swingTempByte (putTemp s.dsel c.temp) s) fun s =>
    .next (writeByte csumByte 0x00 s)

/-- `GETID` (40_payload_codec.md R99). -/
def execGetid (s : State) : Outcome := withBytes [identByte] s fun b => .next (s.setResIdent (b identByte))

/-- `GETPWR` (40_payload_codec.md R100). -/
def execGetpwr (s : State) : Outcome :=
  withBytes [powerByte] s fun b => .next (s.setResPower (powerOf s.dsel (b powerByte)))

/-- `GETMODE` (40_payload_codec.md R101): the raw code, legal or not. -/
def execGetmode (s : State) : Outcome := withBytes [modeByte] s fun b => .next (s.setResMode (modeOf (b modeByte)))

/-- `GETFAN` (40_payload_codec.md R102). -/
def execGetfan (s : State) : Outcome := withBytes [fanByte] s fun b => .next (s.setResFan (fanOf (b fanByte)))

/-- `GETSWING` (40_payload_codec.md R103). -/
def execGetswing (s : State) : Outcome :=
  withBytes [swingTempByte] s fun b => .next (s.setResSwing (swingOf (b swingTempByte)))

/-- `GETTEMP` (40_payload_codec.md R104): no clamp on read. -/
def execGettemp (s : State) : Outcome :=
  withBytes [swingTempByte] s fun b => .next (s.setResTemp (tempOf s.dsel (b swingTempByte)))

/-- `GETCSUM` (40_payload_codec.md R105). -/
def execGetcsum (s : State) : Outcome := withBytes [csumByte] s fun b => .next (s.setResCsum (b csumByte))

/-- The bytes that `UNPACK` reads (40_payload_codec.md R106). -/
def unpackBytes : List Nat := [identByte, swingTempByte, fanByte, modeByte, powerByte]

/-- `UNPACK` (40_payload_codec.md R106): on a failure `ERR` alone is written. -/
def execUnpack (s : State) : Outcome :=
  withBytes unpackBytes s fun b =>
    match firstFieldFailure s.dsel b with
    | some r => .next (raiseUnpackReject r s)
    | none => .next ((s.setResCommand (commandOf s.dsel b)).setErr .none)

end Sys2Proof.Machine
end

