-- ==== Sys2Proof/Machine/Dispatch.lean ====
section
/-! DEFINITION. One arm per operation of 30_encoding.md R66. -/

namespace Sys2Proof.Machine

def exec (i : Instr) (s : State) : Host.Outcome State Fault Refusal :=
  match i with
  | .pnew => Sys2Proof.Machine.execPnew s
  | .pack => Sys2Proof.Machine.execPack s
  | .unpack => Sys2Proof.Machine.execUnpack s
  | .setid => Sys2Proof.Machine.execSetid s
  | .setpwr => Sys2Proof.Machine.execSetpwr s
  | .setmode => Sys2Proof.Machine.execSetmode s
  | .setfan => Sys2Proof.Machine.execSetfan s
  | .setswing => Sys2Proof.Machine.execSetswing s
  | .settemp => Sys2Proof.Machine.execSettemp s
  | .getid => Sys2Proof.Machine.execGetid s
  | .getpwr => Sys2Proof.Machine.execGetpwr s
  | .getmode => Sys2Proof.Machine.execGetmode s
  | .getfan => Sys2Proof.Machine.execGetfan s
  | .getswing => Sys2Proof.Machine.execGetswing s
  | .gettemp => Sys2Proof.Machine.execGettemp s
  | .getcsum => Sys2Proof.Machine.execGetcsum s
  | .csumc => Sys2Proof.Machine.execCsumc s
  | .csumw => Sys2Proof.Machine.execCsumw s
  | .csumv => Sys2Proof.Machine.execCsumv s
  | .encode => Sys2Proof.Machine.execEncode s
  | .demod => Sys2Proof.Machine.execDemod s
  | .validate => Sys2Proof.Machine.execValidate s
  | .decode => Sys2Proof.Machine.execDecode s

end Sys2Proof.Machine
end

