-- ==== Sys2Proof/Machine/HostAccess.lean ====
section
/-! DEFINITION. What the host, the receiver, the transmitter and reset do to the registers between operations
(10_state.md R27). -/

namespace Sys2Proof.Machine

/-- What a host read shows: a number (codes and bit fields read as unsigned numbers), a state of `FSM`, a Command or a
pulse sequence. -/
inductive HostValue where
  | number (n : Nat)
  | fsm (f : Fsm)
  | command (c : Command)
  | pulses (q : List Pulse)
deriving DecidableEq, Repr

/-- A field of `RES` as the host reads it (10_state.md R19, R27). -/
def resView (s : State) : ResField → HostValue
  | .ident => .number s.res.ident.toNat
  | .power => .number s.res.power.toNat
  | .mode => .number s.res.mode.toNat
  | .fan => .number s.res.fan.toNat
  | .swing => .number s.res.swing.toNat
  | .temp => .number s.res.temp.toNat
  | .csum => .number s.res.csum.toNat

/-- A byte of `BUF` as the host reads it: a free value while nothing has written it (log 8). An index above 12 names no
location, and the access is refused (20_memory.md R41). -/
def bufView (s : State) (i : Nat) : Except Refusal HostValue :=
  if bufIndexExists i then .ok (.number ((s.buf.read i).getD (unwrittenByte i)).toNat) else .error (.bufIndexOutOfRange i)

/-- What the host reads in a register (10_state.md R27). Every register can be read at any time; what is shown before
anything wrote it is the value it holds since reset (20_memory.md R49, R50; logs 4, 5, 6, 8). -/
def hostView (s : State) : HostReg → Except Refusal HostValue
  | .dsel => .ok (.number (dselCode s.dsel).toNat)
  | .cmd => .ok (.command s.cmd)
  | .bufByte i => bufView s i
  | .sum => .ok (.number s.sum.toNat)
  | .csok => .ok (.number s.csok.toNat)
  | .res f => .ok (resView s f)
  | .err => .ok (.number (reasonCode s.err))
  | .fsm => .ok (.fsm s.fsm)
  | .pos => .ok (.number s.pos)
  | .txq => .ok (.pulses s.txq)
  | .rxq => .ok (.pulses s.rxq)

/-- Whether a field of `RES` has been written since reset (70_reset_and_hazards.md R211). -/
def resFieldHasValue (s : State) : ResField → Bool
  | .ident => s.written.ident
  | .power => s.written.power
  | .mode => s.written.mode
  | .fan => s.written.fan
  | .swing => s.written.swing
  | .temp => s.written.temp
  | .csum => s.written.csum

/-- Whether a register holds a value in the sense of 70_reset_and_hazards.md R211: the host may rely on what it reads
there. -/
def hasValue (s : State) : HostReg → Bool
  | .cmd => s.written.cmd
  | .bufByte i => (s.buf.read i).isSome
  | .sum => s.written.sum
  | .res f => resFieldHasValue s f
  | .dsel | .csok | .err | .fsm | .pos | .txq | .rxq => true

/-- A host read changes nothing (20_memory.md R49). -/
def hostRead (r : HostReg) (s : State) : Outcome :=
  match hostView s r with
  | .ok _ => .next s
  | .error e => .refused e

/-- The host writes `CMD`, all five fields in one access (10_state.md R13; log 18). -/
def hostWriteCmd (c : Command) (s : State) : Outcome := .next (s.setCmd c)

/-- The host writes one byte of `BUF`; an index above 12 is refused (20_memory.md R41). -/
def hostWriteBuf (i : Nat) (v : Byte) (s : State) : Outcome :=
  if bufIndexExists i then .next (s.setBuf (s.buf.write i v)) else .refused (.bufIndexOutOfRange i)

/-- The receiver writes the whole inbound sequence (10_state.md R22). -/
def receiverWrite (q : List Pulse) (s : State) : Outcome := .next (s.setRxq q)

/-- What the transmitter takes: the outbound sequence, whole (42_timing_encoder.md R147). -/
def transmitterView (s : State) : List Pulse := s.txq

/-- The transmitter's read leaves every register as it is; the block keeps no position in `TXQ` and no busy flag
(42_timing_encoder.md R147, 70_reset_and_hazards.md R223; log 13). -/
def transmitterRead (s : State) : Outcome := .next s

/-- Reset: the strap is sampled and every register takes its reset value; the receiver's `MATCH` and what the outside
parties do next are not the block's registers (10_state.md R11, R29; log 14). -/
def resetBlock (strap : Dialect) (s : State) : Outcome :=
  .next ((State.resetWith strap s.matcher).setPending s.pending)

end Sys2Proof.Machine
end

