-- ==== Sys2Proof/Machine/Events.lean ====
section
/-! DEFINITION. The next event of the total order of 20_memory.md R50 and its effect. -/

namespace Sys2Proof.Machine

/-- The next thing an outside party does, and the state in which it is done (20_memory.md R50; log 1). -/
def nextEvent (s : State) : Option (Event × State) :=
  match s.pending with
  | [] => none
  | e :: rest => some (e, s.setPending rest)

/-- The host presents an operation's code: the operation is performed whole, or a reserved code is refused
(10_state.md R10, R27; 30_encoding.md R67). -/
def issueOperation (op : Byte) (s : State) : Outcome :=
  match decodeBytes [op] with
  | .ok (i, _) => exec i s
  | .error _ => .refused (.reservedOpCode op)

/-- The effect of an event (10_state.md R27). -/
def performEvent (e : Event) (s : State) : Outcome :=
  match e with
  | .operation op => issueOperation op s
  | .hostWriteCmd c => hostWriteCmd c s
  | .hostWriteBuf i v => hostWriteBuf i v s
  | .hostRead r => hostRead r s
  | .receiverWriteRxq q => receiverWrite q s
  | .transmitterReadTxq => transmitterRead s
  | .reset strap => resetBlock strap s

/-- `s` with the operation code `op` presented next. -/
def presentOperation (op : Byte) (s : State) : State := s.setPending (.operation op :: s.pending)

end Sys2Proof.Machine
end

