-- ==== Sys2Proof/Machine/Step.lean ====
section
/-! DEFINITION. One step of the machine. -/

namespace Sys2Proof.Machine

/-- One step: the next event of `pending` is performed. With nothing pending the block is idle and no register
changes (20_memory.md R50; logs 1, 9). -/
def step (s : State) : Host.Outcome State Fault Refusal :=
  match nextEvent s with
  | none => .next s
  | some (e, t) => performEvent e t

/-- `s` with the operation of `nbits` bits `w` presented next, before whatever else is pending (log 1). -/
def State.withFetchWord (s : State) (nbits w : Nat) : State := presentOperation (firstByte nbits w) s

end Sys2Proof.Machine
end

