-- ==== Sys2Proof/Safety.lean ====
section
/-! DEFINITION. The terms in which claims about the machine are stated: what an operation reads and stores, the
invariant of a state, the runs from reset, the decode as one function (43_timing_decoder.md R170), the property P-DISJ
of a matching table (00_scope.md R5), and what the host contracts say of register values. -/

namespace Sys2Proof.Machine

/-! ## What an operation reads and stores -/

/-- Whether an operation reads `CMD` (the "Operands" of its rule in 40_payload_codec.md). -/
def readsCmd : Instr → Bool
  | .pack | .setpwr | .setmode | .setfan | .setswing | .settemp => true
  | .pnew | .unpack | .setid | .getid | .getpwr | .getmode | .getfan | .getswing | .gettemp | .getcsum | .csumc
  | .csumw | .csumv | .encode | .demod | .validate | .decode => false

/-- The bytes of `BUF` that an operation needs written before it (the "Operands" of its rule). -/
def readsBytes : Instr → List Nat
  | .pnew | .pack | .setid | .demod | .decode => []
  | .setpwr | .getpwr => [powerByte]
  | .setmode | .getmode => [modeByte]
  | .setfan | .getfan => [fanByte]
  | .setswing | .settemp | .getswing | .gettemp => [swingTempByte]
  | .getid => [identByte]
  | .getcsum => [csumByte]
  | .unpack => unpackBytes
  | .csumc | .csumw => summedBytes
  | .csumv | .encode | .validate => allBytes

/-- The bytes of `BUF` that an operation stores to. -/
def storesTo : Instr → List Nat
  | .pnew | .pack | .demod | .decode => allBytes
  | .setid => [identByte]
  | .setpwr => [powerByte]
  | .setmode => [modeByte]
  | .setfan => [fanByte]
  | .setswing | .settemp => [swingTempByte]
  | .csumw => [csumByte]
  | .unpack | .getid | .getpwr | .getmode | .getfan | .getswing | .gettemp | .getcsum | .csumc | .csumv | .encode
  | .validate => []

/-- Every register that the operation reads has been written since reset (40_payload_codec.md R90). -/
def operandsAvailable (i : Instr) (s : State) : Bool :=
  (!readsCmd i || s.written.cmd) && (readsBytes i).all (fun a => (s.buf.read a).isSome)

/-- `BUF` holds the byte `b i` at every index 0..12. -/
def bufferHolds (s : State) (b : Nat → Byte) : Prop := ∀ i < 13, s.buf.read i = some (b i)

/-- The operations `l` one after another (30_encoding.md R71). -/
def runOps : List Instr → State → Outcome
  | [], s => .next s
  | i :: l, s => andThen (exec i s) (runOps l)

/-! ## The invariant -/

/-- What holds of every state that a run reaches, and of no state by its type alone. -/
structure State.Inv (s : State) : Prop where
  /-- The buffer is in canonical form and lists no index above 12 (20_memory.md R40). -/
  bufWf : s.buf.wf = true
  /-- `POS` stays in 0..105 (10_state.md R23). -/
  posBound : s.pos ≤ 105
  /-- The `ReadingBits` values exist inside `DEMOD` only (10_state.md R24). -/
  notReading : ∀ i j, s.fsm ≠ .readingBits i j
  /-- `AwaitHeader` is seen before any attempt only, when no pulse has been consumed (10_state.md R24). -/
  awaiting : s.fsm = .awaitHeader → s.pos = 0
  /-- `Validating` is seen after all 104 bits were read, and then the buffer is whole (10_state.md R24). -/
  validating : s.fsm = .validating → s.pos = 105 ∧ ∀ i < 13, (s.buf.read i).isSome
  /-- In `Accepted` the five Command fields of `RES` hold values (43_timing_decoder.md R167). -/
  accepted : s.fsm = .accepted →
    s.written.power = true ∧ s.written.mode = true ∧ s.written.fan = true ∧ s.written.swing = true ∧
      s.written.temp = true
  /-- `TXQ` is empty or one whole frame of the instance's own dialect (10_state.md R21, 20_memory.md R52). -/
  txqFrame : s.txq = [] ∨ ∃ b, s.txq = encodeFrame s.dsel b
  /-- `CSOK` is 1 only after a comparison, which wrote `SUM` (10_state.md R18). -/
  csokSum : s.csok = true → s.written.sum = true
  /-- `RES.temp` holds a value in 8..39 (10_state.md R19). -/
  tempRange : s.written.temp = true → 8 ≤ s.res.temp.toNat ∧ s.res.temp.toNat ≤ 39

/-- The states of the runs from reset, whatever dialect is strapped, whatever the receiver's `MATCH` is and whatever
the outside parties do. -/
inductive Reachable : State → Prop where
  | reset (d : Dialect) (m : Matcher) (es : List Event) : Reachable ((State.resetWith d m).setPending es)
  | step {s t : State} : Reachable s → Sys2Proof.Machine.step s = .next t → Reachable t

/-- A safe step: the machine goes on. -/
def StepsOn (s : State) : Prop := ∃ t, Sys2Proof.Machine.step s = .next t

/-! ## The receiver's matching function -/

/-- P-DISJ for dialect `d`: no observed pair matches both symbols (00_scope.md R5). -/
def SeparatesSymbols (d : Dialect) (m : Matcher) : Prop :=
  ∀ p, ¬(pulseMatches m p (onePulse d) = true ∧ pulseMatches m p (zeroPulse d) = true)

/-! ## The decode as a function (43_timing_decoder.md R170) -/

/-- `decode(seq, cfg, MATCH)`: a rejection with its reason, or a Command with the Payload it came in. -/
inductive Verdict where
  | rejected (r : Reason)
  | accepted (c : Command) (payload : Nat → Byte)

/-- Bit `n` of the received payload: the classified value of pulse `n + 1`, if there is such a pulse and it matches a
symbol. -/
def receivedBit (d : Dialect) (m : Matcher) (seq : List Pulse) (n : Nat) : Option Bool :=
  seq[n + 1]?.bind fun p => (classifyPulse d m p).map (symbolBit d)

/-- The byte made of eight received bits, the first the least significant. -/
def receivedByte (bit : Nat → Option Bool) (i : Nat) : Byte :=
  BitVec.ofNat 8 ((List.range 8).map (fun j => if bit (8 * i + j) = some true then 2 ^ j else 0)).sum

/-- The verdict of the cascade on a payload. -/
def payloadVerdict (d : Dialect) (b : Nat → Byte) : Verdict :=
  match firstFieldFailure d b with
  | some r => .rejected r
  | none => if checksumOf d b = b csumByte then .accepted (commandOf d b) b else .rejected .checksumMismatch

/-- The whole decode (43_timing_decoder.md R170). -/
def decodeVerdict (d : Dialect) (m : Matcher) (seq : List Pulse) : Verdict :=
  match seq with
  | [] => .rejected .headerMismatch
  | h :: _ =>
    if !pulseMatches m h (headerPulse d) then .rejected .headerMismatch
    else if (List.range 104).any (fun n => (receivedBit d m seq n).isNone) then .rejected .truncatedMessage
    else payloadVerdict d (receivedByte (receivedBit d m seq))

/-- The five Command fields of `RES` (10_state.md R19). -/
def resCommand (t : State) : Command :=
  { power := t.res.power, mode := t.res.mode, fan := t.res.fan, swing := t.res.swing, temp := t.res.temp }

/-- A state shows a verdict: `FSM` and `ERR`, and on acceptance the Command in `RES` and the Payload in `BUF`. -/
def shows (t : State) : Verdict → Prop
  | .rejected r => t.fsm = .rejected ∧ t.err = r
  | .accepted c b => t.fsm = .accepted ∧ t.err = .none ∧ resCommand t = c ∧ bufferHolds t b

/-! ## The host's side -/

/-- A finalized buffer: byte 12 is the checksum of the other twelve (41_checksum.md R135, 70_reset_and_hazards.md R214). -/
def finalized (d : Dialect) (b : Nat → Byte) : Prop := b csumByte = checksumOf d b

/-- Whether the host applies the decoded temperature (70_reset_and_hazards.md R226). -/
def hostAppliesTemp (c : Command) : Bool := decodeMode c.mode == .auto || decodeMode c.mode == .cool

/-- Whether the host reads a received Command as its mode `off` (70_reset_and_hazards.md R229). -/
def hostReadsOff (c : Command) : Bool := !c.power

/-- When the host may read `RES` as a Command: after `VALIDATE` or `DECODE` only in `Accepted`, after `UNPACK` only
with no reason in `ERR` (60_exceptions.md R191). -/
def hostMayTrustRes (last : Instr) (s : State) : Bool :=
  match last with
  | .validate | .decode => s.fsm == .accepted
  | .unpack => s.err == .none
  | .pnew | .pack | .setid | .setpwr | .setmode | .setfan | .setswing | .settemp | .getid | .getpwr | .getmode
  | .getfan | .getswing | .gettemp | .getcsum | .csumc | .csumw | .csumv | .encode | .demod => false

end Sys2Proof.Machine
end

