-- ==== Sys2Proof/Certificates/Slice0/Obligations.lean ====
section
/-! DEFINITION. The statements about the machine, each from the rule of spec/ that its docstring names. -/

open Sys2Proof Sys2Proof.Machine

/-! ## Words the statements use -/

/-- `BUF` holds the byte `b a` at every index `a` of `idx`. -/
def Sys2Proof.Claims.bytesHeld (s : State) (idx : List Nat) (b : Nat → Byte) : Prop :=
  ∀ a ∈ idx, s.buf.read a = some (b a)

/-- `s` and `t` differ in byte `a` of `BUF` and nowhere else, and there `t` holds `v`. -/
def Sys2Proof.Claims.storesByte (s t : State) (a : Nat) (v : Byte) : Prop :=
  t.buf.read a = some v ∧ (∀ b, b ≠ a → t.buf.read b = s.buf.read b) ∧ t = s.setBuf t.buf

/-- `s` with a rejection recorded: `FSM <- Rejected; ERR <- r`, every other register as it was. -/
def Sys2Proof.Claims.rejectedWith (r : Reason) (s : State) : State := { s with fsm := .rejected, err := r }

/-- A value that depends on the dialect. -/
def Sys2Proof.Claims.byDialect {α : Type} (d : Dialect) (a b : α) : α :=
  match d with
  | .A => a
  | .B => b

/-- An observed pulse is read as the bit value `v`: the one-symbol is tried first (43_timing_decoder.md R154, R157),
and its value is 1 in Dialect A and 0 in Dialect B (R158). -/
def Sys2Proof.Claims.pulseCarries (d : Dialect) (m : Matcher) (p : Pulse) (v : Bool) : Prop :=
  (pulseMatches m p (onePulse d) = true ∧ v = Sys2Proof.Claims.byDialect d true false) ∨
    (pulseMatches m p (onePulse d) = false ∧ pulseMatches m p (zeroPulse d) = true ∧
      v = Sys2Proof.Claims.byDialect d false true)

/-- The captured sequence has no pulse at position `n`, or one that matches neither symbol. -/
def Sys2Proof.Claims.noSymbolAt (d : Dialect) (m : Matcher) (q : List Pulse) (n : Nat) : Prop :=
  ∀ p, q[n]? = some p → pulseMatches m p (onePulse d) = false ∧ pulseMatches m p (zeroPulse d) = false

/-- The captured sequence starts with a pulse that matches the header. -/
def Sys2Proof.Claims.startsWithHeader (d : Dialect) (m : Matcher) (q : List Pulse) : Prop :=
  ∃ p, q[0]? = some p ∧ pulseMatches m p (headerPulse d) = true

/-- The bit pulses `0` to `n - 1` of the captured sequence are read as the values `bits`. -/
def Sys2Proof.Claims.bitsRead (d : Dialect) (m : Matcher) (q : List Pulse) (bits : Nat → Bool) (n : Nat) : Prop :=
  ∀ k < n, ∃ p, q[k + 1]? = some p ∧ Sys2Proof.Claims.pulseCarries d m p (bits k)

/-- The buffer after `n` bit pulses: the bits read, then the dialect's fill (43_timing_decoder.md R159). -/
def Sys2Proof.Claims.bufferAfterBits (t : State) (bits : Nat → Bool) (n : Nat) : Prop :=
  ∃ b, bufferHolds t b ∧ ∀ k < 104, wireBit b k = if k < n then bits k else Sys2Proof.Claims.byDialect t.dsel false true

/-- The five raw codes and the temperature that the fields of a buffer say, from the bit positions of 20_memory.md R46
and the formulas of 30_encoding.md R73. -/
def Sys2Proof.Claims.fieldsOf (d : Dialect) (b : Nat → Byte) : Command where
  power := Sys2Proof.Claims.byDialect d ((b 9).getLsbD 5) (!(b 9).getLsbD 5)
  mode := ext (b 6) 0 3
  fan := ext (b 4) 0 4
  swing := ext (b 1) 0 3
  temp := Sys2Proof.Claims.byDialect d (8 + (ext (b 1) 3 5).setWidth 8) (39 - (ext (b 1) 3 5).setWidth 8)

/-- The stored temperature of 30_encoding.md R63. -/
def Sys2Proof.Claims.storedTemp (d : Dialect) (temp : Byte) : BitVec 5 :=
  Sys2Proof.Claims.byDialect d (BitVec.ofNat 5 (max 16 (min 32 temp.toNat) - 8))
    (BitVec.ofNat 5 (39 - max 16 (min 32 temp.toNat)))

/-- The four field checks, in order (40_payload_codec.md R106, 43_timing_decoder.md R162 to R165). -/
def Sys2Proof.Claims.fieldFailure (d : Dialect) (b : Nat → Byte) : Option Reason :=
  if b 0 ≠ Sys2Proof.Claims.byDialect d 0xC3 0x3C then some .identityMismatch
  else if ext (b 6) 0 3 ∉ [0x1#3, 0x5#3, 0x6#3, 0x7#3] then some (.fieldInvalid .mode)
  else if ext (b 1) 0 3 ∉ [0x0#3, 0x7#3] then some (.fieldInvalid .swing)
  else if ext (b 4) 0 4 ∉ [0x5#4, 0x9#4, 0xB#4, 0xD#4] then some (.fieldInvalid .fanSpeed)
  else none

/-- `compute` on the 13 bytes of a buffer under the dialect's seed (41_checksum.md R130). -/
def Sys2Proof.Claims.bufferSum (d : Dialect) (b : Nat → Byte) : Byte :=
  compute ((List.range 13).map b) (Sys2Proof.Claims.byDialect d 0x00 0x0B)

/-- A field of `RES` as an unsigned number, and whether it has been written since reset (10_state.md R19). -/
def Sys2Proof.Claims.resField (s : State) : ResField → Bool × Nat
  | .ident => (s.written.ident, s.res.ident.toNat)
  | .power => (s.written.power, s.res.power.toNat)
  | .mode => (s.written.mode, s.res.mode.toNat)
  | .fan => (s.written.fan, s.res.fan.toNat)
  | .swing => (s.written.swing, s.res.swing.toNat)
  | .temp => (s.written.temp, s.res.temp.toNat)
  | .csum => (s.written.csum, s.res.csum.toNat)

/-- The fields of `RES` that an operation writes when it completes (10_state.md R19): its own one for an accessor, the
five Command fields for `UNPACK`, `VALIDATE` and `DECODE` when they succeed. -/
def Sys2Proof.Claims.resFieldsWritten (i : Instr) (t : State) : List ResField :=
  match i with
  | .getid => [.ident]
  | .getpwr => [.power]
  | .getmode => [.mode]
  | .getfan => [.fan]
  | .getswing => [.swing]
  | .gettemp => [.temp]
  | .getcsum => [.csum]
  | .unpack => if t.err = .none then [.power, .mode, .fan, .swing, .temp] else []
  | .validate | .decode => if t.fsm = .accepted then [.power, .mode, .fan, .swing, .temp] else []
  | .pnew | .pack | .setid | .setpwr | .setmode | .setfan | .setswing | .settemp | .csumc | .csumw | .csumv | .encode
  | .demod => []

/-- The operation compared the checksum: `VALIDATE` and `DECODE` only when the first four checks passed
(43_timing_decoder.md R161). -/
def Sys2Proof.Claims.comparesChecksum (i : Instr) (t : State) : Prop :=
  i = .csumv ∨ ((i = .validate ∨ i = .decode) ∧ (t.fsm = .accepted ∨ t.err = .checksumMismatch))

open Sys2Proof.Claims

/-! ## Reset, the invariant, the step -/

/-- 10_state.md R29 (the spec's decision D18): what reset leaves, for either strap and every `MATCH`. `CMD`, `BUF`,
`SUM` and `RES` hold no value, and an operation that reads one of them is refused. -/
def Obligations.ResetLeavesTheSpecsValues : Prop :=
  ∀ (d : Dialect) (m : Matcher), let s := State.resetWith d m
    s.dsel = d ∧ s.fsm = .awaitHeader ∧ s.err = .none ∧ s.pos = 0 ∧ s.csok = false ∧ s.txq = [] ∧ s.rxq = [] ∧
    s.written = { cmd := false, sum := false, ident := false, power := false, mode := false, fan := false, swing := false,
                  temp := false, csum := false } ∧
    (∀ i, s.buf.read i = none) ∧
    (∀ r, hasValue s r = true ↔ r = .dsel ∨ r = .csok ∨ r = .err ∨ r = .fsm ∨ r = .pos ∨ r = .txq ∨ r = .rxq) ∧
    (∀ i, readsCmd i = true ∨ readsBytes i ≠ [] → ∃ r, exec i s = .refused r)

/-- The invariant holds after every reset, whatever is pending. -/
def Obligations.InvariantHoldsAfterReset : Prop :=
  ∀ (d : Dialect) (m : Matcher) (es : List Event), ((State.resetWith d m).setPending es).Inv

/-- The invariant is kept by every step from every state that meets it: the buffer stays canonical, `POS` stays in
0..105, `ReadingBits` is never seen between operations, `Validating` means a whole buffer, `TXQ` is empty or one whole
frame of the instance's own dialect, `RES.temp` stays in 8..39. -/
def Obligations.EveryStepKeepsTheInvariant : Prop :=
  ∀ s t : State, s.Inv → step s = .next t → t.Inv

/-- A presented code that decodes to an operation makes the step that operation on the state without the event, a word
placed by `withFetchWord` runs on exactly the state it was placed in, and a step with nothing pending changes nothing
(logs 1, 9). -/
def Obligations.StepRunsTheDecodedInstruction : Prop :=
  (∀ (s : State) (op : Byte) (rest : List Event) (i : Instr),
    s.pending = .operation op :: rest → decodeOp op = .ok i → step s = exec i (s.setPending rest)) ∧
  (∀ (s : State) (w : Nat) (i : Instr), decodeTableWord 8 w = some i → step (s.withFetchWord 8 w) = exec i s) ∧
  (∀ s : State, s.pending = [] → step s = .next s)

/-! ## Encoding -/

/-- 30_encoding.md R66: the 23 codes, written out in bits, decode to their operations. -/
def Obligations.TableCodesDecodeToTheirOperations : Prop :=
  decodeOp 0b00010000#8 = .ok .pnew ∧ decodeOp 0b00010001#8 = .ok .pack ∧ decodeOp 0b00010010#8 = .ok .unpack ∧
  decodeOp 0b00010011#8 = .ok .setid ∧ decodeOp 0b00010100#8 = .ok .setpwr ∧ decodeOp 0b00010101#8 = .ok .setmode ∧
  decodeOp 0b00010110#8 = .ok .setfan ∧ decodeOp 0b00010111#8 = .ok .setswing ∧
  decodeOp 0b00011000#8 = .ok .settemp ∧ decodeOp 0b00011001#8 = .ok .getid ∧ decodeOp 0b00011010#8 = .ok .getpwr ∧
  decodeOp 0b00011011#8 = .ok .getmode ∧ decodeOp 0b00011100#8 = .ok .getfan ∧
  decodeOp 0b00011101#8 = .ok .getswing ∧ decodeOp 0b00011110#8 = .ok .gettemp ∧
  decodeOp 0b00011111#8 = .ok .getcsum ∧ decodeOp 0b00100000#8 = .ok .csumc ∧ decodeOp 0b00100001#8 = .ok .csumw ∧
  decodeOp 0b00100010#8 = .ok .csumv ∧ decodeOp 0b00110000#8 = .ok .encode ∧ decodeOp 0b01000000#8 = .ok .demod ∧
  decodeOp 0b01000001#8 = .ok .validate ∧ decodeOp 0b01000010#8 = .ok .decode

/-- Decoding an encoded operation gives it back with the bytes after it, and no other code decodes to it. -/
def Obligations.DecodeAndEncodeAgree : Prop :=
  (∀ (i : Instr) (rest : List Byte), decodeBytes (encodeBytes i ++ rest) = .ok (i, rest)) ∧
  (∀ (op : Byte) (i : Instr), decodeOp op = .ok i → op = encodeOp i)

/-- 30_encoding.md R67: 233 of the 256 codes are reserved; a reserved code that the host presents is refused by its own
name, with no next state. -/
def Obligations.ReservedCodesAreRefused : Prop :=
  ((List.range 256).filter (fun n => opTable.all (fun row => row.1 != BitVec.ofNat 8 n))).length = 233 ∧
  ∀ (s : State) (op : Byte) (rest : List Event), s.pending = .operation op :: rest →
    (∀ row ∈ opTable, row.1 ≠ op) → step s = .refused (.reservedOpCode op)

/-- 30_encoding.md R72: the expansions of the three pseudo-operations. -/
def Obligations.PseudoOperationsExpand : Prop :=
  expandPseudo .transmit = [.pack, .csumw, .encode] ∧ expandPseudo .receive = [.decode] ∧
  expandPseudo .finalize = [.csumw]

/-! ## The outside parties -/

/-- The host's writes of `CMD` and of a byte of `BUF`, the receiver's write of `RXQ`, and reset: each is a step with
exactly this effect (10_state.md section 10, 70_reset_and_hazards.md section 1). That reset keeps `MATCH` and what is
pending is the model's choice (log 14). -/
def Obligations.OutsideWritesDoOnlyTheirRegister : Prop :=
  ∀ (s : State) (rest : List Event), let u := s.setPending rest
    (∀ c, s.pending = .hostWriteCmd c :: rest → step s = .next (u.setCmd c)) ∧
    (∀ i v, i < 13 → s.pending = .hostWriteBuf i v :: rest → ∃ t, step s = .next t ∧ storesByte u t i v) ∧
    (∀ q, s.pending = .receiverWriteRxq q :: rest → step s = .next (u.setRxq q)) ∧
    (∀ d, s.pending = .reset d :: rest → step s = .next ((State.resetWith d s.matcher).setPending rest))

/-- 20_memory.md R41: no operation gives a value to an index above 12, and a host access there, a write or a read, is
refused. -/
def Obligations.BufferHasNoIndexAboveTwelve : Prop :=
  (∀ (i : Instr) (s t : State) (a : Nat), s.buf.wf = true → exec i s = .next t → 13 ≤ a → t.buf.read a = none) ∧
  (∀ (s : State) (rest : List Event) (a : Nat) (v : Byte), 13 ≤ a →
    (s.pending = .hostWriteBuf a v :: rest → step s = .refused (.bufIndexOutOfRange a)) ∧
    (s.pending = .hostRead (.bufByte a) :: rest → step s = .refused (.bufIndexOutOfRange a)))

/-- A host read of any register completes, changes nothing and shows what the register holds, and the transmitter's read
of `TXQ` changes nothing (20_memory.md section 5, 10_state.md section 10). The spec gives `CMD`, `SUM`, `RES` and `BUF` no
value until they are written: that a read of one that nothing has written completes is the model's choice, and so is what
it shows, the bits State holds for `CMD` (log 4), `SUM` (log 5) and a field of `RES` (log 6), and some value, not which, for
a byte of `BUF` (log 8). That the transmitter's read leaves `TXQ` is read by inference (log 13). -/
def Obligations.ReadsShowTheRegisterAndChangeNothing : Prop :=
  ∀ (s : State) (rest : List Event), let u := s.setPending rest
    (∀ r, (∀ i, r = .bufByte i → i < 13) → s.pending = .hostRead r :: rest →
      step s = .next u ∧ ∃ v, hostView s r = .ok v) ∧
    (s.pending = .transmitterReadTxq :: rest → step s = .next u ∧ transmitterView s = s.txq) ∧
    hostView s .cmd = .ok (.command s.cmd) ∧
    hostView s .sum = .ok (.number s.sum.toNat) ∧
    (∀ i x, i < 13 → s.buf.read i = some x → hostView s (.bufByte i) = .ok (.number x.toNat)) ∧
    (∀ i, i < 13 → s.buf.read i = none → ∃ x : Byte, hostView s (.bufByte i) = .ok (.number x.toNat)) ∧
    (∀ f, hostView s (.res f) = .ok (.number (resField s f).2)) ∧
    hostView s .csok = .ok (.number (if s.csok then 1 else 0)) ∧
    hostView s .dsel = .ok (.number (byDialect s.dsel 0 1)) ∧
    hostView s .fsm = .ok (.fsm s.fsm) ∧ hostView s .pos = .ok (.number s.pos) ∧
    hostView s .txq = .ok (.pulses s.txq) ∧ hostView s .rxq = .ok (.pulses s.rxq)

/-- 10_state.md R11: `DSEL` is A (0) or B (1), every reset samples the strap, and nothing else changes it: no operation,
no other event. -/
def Obligations.StrapChangesOnlyAtReset : Prop :=
  dselCode .A = 0 ∧ dselCode .B = 1 ∧
  (∀ (i : Instr) (s t : State), exec i s = .next t → t.dsel = s.dsel) ∧
  (∀ (s t : State) (e : Event) (rest : List Event), s.pending = e :: rest → step s = .next t →
    (∀ d, e = .reset d → t.dsel = d) ∧ ((∀ d, e ≠ .reset d) → t.dsel = s.dsel))

/-! ## Constants and codes -/

/-- 10_state.md R12: the two columns of the dialect table. -/
def Obligations.DialectConstants : Prop :=
  cfg .A = { hdrMark := 8968, hdrSpace := 4425, bitMark := 600, oneSpace := 1650, zeroSpace := 500, seed := 0x00,
             ident := 0xC3, pwrOn := 1, fill := 0, symInv := false, trailer := true, carrierHz := 38000 } ∧
  cfg .B = { hdrMark := 9166, hdrSpace := 4470, bitMark := 646, oneSpace := 1647, zeroSpace := 547, seed := 0x0B,
             ident := 0x3C, pwrOn := 0, fill := 1, symInv := true, trailer := false, carrierHz := 38000 } ∧
  (∀ t, tenc .A t = t - 8 ∧ tenc .B t = 39 - t) ∧ (∀ s, tdec .A s = 8 + s ∧ tdec .B s = 39 - s)

/-- 40_payload_codec.md R107: the classification of every raw code of the three enumerated fields, and which are legal. -/
def Obligations.EnumCodesClassify : Prop :=
  (∀ m : BitVec 3, decodeMode m =
    if m = 0x7 then .auto else if m = 0x6 then .cool else if m = 0x5 then .dry else if m = 0x1 then .fan
    else .invalid) ∧
  (∀ s : BitVec 3, decodeSwing s = if s = 0x7 then .on else if s = 0x0 then .off else .invalid) ∧
  (∀ f : BitVec 4, decodeFan f =
    if f = 0x5 then .auto else if f = 0xD then .high else if f = 0xB then .mid else if f = 0x9 then .low
    else .invalid) ∧
  (∀ m : BitVec 3, modeLegal m = true ↔ decodeMode m ≠ .invalid) ∧
  (∀ s : BitVec 3, swingLegal s = true ↔ decodeSwing s ≠ .invalid) ∧
  (∀ f : BitVec 4, fanLegal f = true ↔ decodeFan f ≠ .invalid)

/-- 60_exceptions.md section 2: the numeric code of every reason, as the host reads it in `ERR`. -/
def Obligations.ReasonCodes : Prop :=
  ∀ s : State,
    hostView (s.setErr .none) .err = .ok (.number 0) ∧
    hostView (s.setErr .headerMismatch) .err = .ok (.number 1) ∧
    hostView (s.setErr .truncatedMessage) .err = .ok (.number 2) ∧
    hostView (s.setErr .identityMismatch) .err = .ok (.number 3) ∧
    hostView (s.setErr (.fieldInvalid .mode)) .err = .ok (.number 4) ∧
    hostView (s.setErr (.fieldInvalid .swing)) .err = .ok (.number 5) ∧
    hostView (s.setErr (.fieldInvalid .fanSpeed)) .err = .ok (.number 6) ∧
    hostView (s.setErr .checksumMismatch) .err = .ok (.number 7)

/-- 20_memory.md section 4: 32 bits of the Payload belong to a field and 72 are reserved, all of bytes 2, 3, 5, 7, 8,
10 and 11 among them. -/
def Obligations.ReservedPayloadBits : Prop :=
  ((List.range 104).filter (fun n => reservedBit (n / 8) (n % 8))).length = 72 ∧
  (∀ i ∈ [2, 3, 5, 7, 8, 10, 11], ∀ k < 8, reservedBit i k = true) ∧
  (∀ k < 8, (reservedBit 4 k = true ↔ 4 ≤ k) ∧ (reservedBit 6 k = true ↔ 3 ≤ k) ∧ (reservedBit 9 k = true ↔ k ≠ 5)) ∧
  (∀ i ∈ [0, 1, 12], ∀ k < 8, reservedBit i k = false)

/-! ## The field mutators and the packer -/

/-- 40_payload_codec.md R91: `PNEW` completes in every state, every byte of `BUF` takes the dialect's fill, and no other
register changes. -/
def Obligations.PnewFillsEveryByte : Prop :=
  ∀ s : State, ∃ t, exec .pnew s = .next t ∧ bufferHolds t (fun _ => byDialect s.dsel 0x00 0xFF) ∧ t = s.setBuf t.buf

/-- 40_payload_codec.md R92: `SETID` completes in every state, whatever has been written, and stores the identity. -/
def Obligations.SetidStoresTheIdentity : Prop :=
  ∀ s : State, ∃ t, exec .setid s = .next t ∧ storesByte s t 0 (byDialect s.dsel 0xC3 0x3C)

/-- 40_payload_codec.md R93: `SETPWR` writes bit 5 of byte 9 under the dialect's polarity. -/
def Obligations.SetpwrStoresThePowerBit : Prop :=
  ∀ (s : State) (x : Byte), s.written.cmd = true → s.buf.read 9 = some x →
    ∃ t, exec .setpwr s = .next t ∧
      storesByte s t 9 (ins x 5 (byDialect s.dsel (BitVec.ofBool s.cmd.power) (BitVec.ofBool (!s.cmd.power))))

/-- 40_payload_codec.md R94, R95, R96: `SETMODE`, `SETFAN` and `SETSWING` copy their code verbatim into their field,
legal or not, in both dialects alike. -/
def Obligations.EnumMutatorsStoreTheCodeVerbatim : Prop :=
  ∀ (s : State) (x : Byte), s.written.cmd = true →
    (s.buf.read 6 = some x → ∃ t, exec .setmode s = .next t ∧ storesByte s t 6 (ins x 0 s.cmd.mode)) ∧
    (s.buf.read 4 = some x → ∃ t, exec .setfan s = .next t ∧ storesByte s t 4 (ins x 0 s.cmd.fan)) ∧
    (s.buf.read 1 = some x → ∃ t, exec .setswing s = .next t ∧ storesByte s t 1 (ins x 0 s.cmd.swing))

/-- 40_payload_codec.md R97: `SETTEMP` clamps to [16, 32] first and stores the dialect's formula in bits 7:3 of byte 1. -/
def Obligations.SettempStoresTheClampedTemperature : Prop :=
  ∀ (s : State) (x : Byte), s.written.cmd = true → s.buf.read 1 = some x →
    ∃ t, exec .settemp s = .next t ∧ storesByte s t 1 (ins x 3 (storedTemp s.dsel s.cmd.temp))

/-- 20_memory.md sections 4 and 5, bit by bit: of the byte it modifies a mutator changes the bits of its field, which
take the bits of the value, and keeps every other bit, the reserved ones among them. -/
def Obligations.MutatorsChangeOnlyTheirFieldsBits : Prop :=
  ∀ (s t : State) (x y : Byte) (k : Nat), k < 8 →
    (exec .setpwr s = .next t → s.buf.read 9 = some x → t.buf.read 9 = some y →
      y.getLsbD k = if k = 5 then byDialect s.dsel s.cmd.power (!s.cmd.power) else x.getLsbD k) ∧
    (exec .setmode s = .next t → s.buf.read 6 = some x → t.buf.read 6 = some y →
      y.getLsbD k = if k < 3 then s.cmd.mode.getLsbD k else x.getLsbD k) ∧
    (exec .setfan s = .next t → s.buf.read 4 = some x → t.buf.read 4 = some y →
      y.getLsbD k = if k < 4 then s.cmd.fan.getLsbD k else x.getLsbD k) ∧
    (exec .setswing s = .next t → s.buf.read 1 = some x → t.buf.read 1 = some y →
      y.getLsbD k = if k < 3 then s.cmd.swing.getLsbD k else x.getLsbD k) ∧
    (exec .settemp s = .next t → s.buf.read 1 = some x → t.buf.read 1 = some y →
      y.getLsbD k = if 3 ≤ k then (storedTemp s.dsel s.cmd.temp).getLsbD (k - 3) else x.getLsbD k)

/-- 40_payload_codec.md section 4 (the spec's own inference in R98): the six mutators touch disjoint bits, so any order
of them gives the same state. -/
def Obligations.MutatorOrderDoesNotMatter : Prop :=
  ∀ (l : List Instr) (s : State), l.Perm [.setid, .setpwr, .setmode, .setfan, .setswing, .settemp] →
    s.written.cmd = true → s.buf.wf = true → (∀ a ∈ [1, 4, 6, 9], (s.buf.read a).isSome) →
    ∃ t, runOps l s = .next t ∧ runOps [.setid, .setpwr, .setmode, .setfan, .setswing, .settemp] s = .next t

/-- 40_payload_codec.md R98: `PACK` is the sequence of the named operations and a 0 in byte 12, and these are the 13
bytes it leaves; no other register changes. -/
def Obligations.PackWritesTheWholePayload : Prop :=
  ∀ s : State, s.written.cmd = true →
    ∃ t u, exec .pack s = .next t ∧ t = s.setBuf t.buf ∧
      runOps [.pnew, .setid, .setpwr, .setmode, .setfan, .setswing, .settemp] s = .next u ∧
      storesByte u t 12 0x00 ∧
      bufferHolds t (fun i =>
        match i with
        | 0 => byDialect s.dsel 0xC3 0x3C
        | 1 => ins (ins (byDialect s.dsel 0x00 0xFF) 0 s.cmd.swing) 3 (storedTemp s.dsel s.cmd.temp)
        | 4 => ins (byDialect s.dsel 0x00 0xFF) 0 s.cmd.fan
        | 6 => ins (byDialect s.dsel 0x00 0xFF) 0 s.cmd.mode
        | 9 => byDialect s.dsel (if s.cmd.power then 0x20 else 0x00) (if s.cmd.power then 0xDF else 0xFF)
        | 12 => 0x00
        | _ => byDialect s.dsel 0x00 0xFF)

/-! ## The field accessors and the unpacker -/

/-- 40_payload_codec.md R99 to R105: each accessor completes when its byte has been written, writes its own field of
`RES` and nothing else. -/
def Obligations.AccessorsReadTheirField : Prop :=
  ∀ (s : State) (x : Byte),
    (s.buf.read 0 = some x → exec .getid s = .next (s.setResIdent x)) ∧
    (s.buf.read 9 = some x → exec .getpwr s = .next (s.setResPower (byDialect s.dsel (x.getLsbD 5) (!x.getLsbD 5)))) ∧
    (s.buf.read 6 = some x → exec .getmode s = .next (s.setResMode (ext x 0 3))) ∧
    (s.buf.read 4 = some x → exec .getfan s = .next (s.setResFan (ext x 0 4))) ∧
    (s.buf.read 1 = some x → exec .getswing s = .next (s.setResSwing (ext x 0 3))) ∧
    (s.buf.read 1 = some x → exec .gettemp s = .next (s.setResTemp
      (byDialect s.dsel (8 + (ext x 3 5).setWidth 8) (39 - (ext x 3 5).setWidth 8)))) ∧
    (s.buf.read 12 = some x → exec .getcsum s = .next (s.setResCsum x))

/-- 40_payload_codec.md R106: `UNPACK` reports the first failing check of identity, mode, swing, fan speed in `ERR` and
writes no field of `RES`; with no failure it writes the five Command fields and `ERR <- None`. `FSM` is not touched. -/
def Obligations.UnpackReportsOrUnpacks : Prop :=
  ∀ (s : State) (b : Nat → Byte), bytesHeld s [0, 1, 4, 6, 9] b →
    exec .unpack s = .next
      (match fieldFailure s.dsel b with
      | some r => s.setErr r
      | none => (s.setResCommand (fieldsOf s.dsel b)).setErr .none)

/-- 40_payload_codec.md section 7, R108 (the spec's own inference): `UNPACK` after `PACK`, with or without `CSUMW`
between, gives back every Command whose enum fields are legal, with its temperature clamped. -/
def Obligations.UnpackInvertsPack : Prop :=
  ∀ (s : State) (l : List Instr), s.written.cmd = true → Command.legalEnums s.cmd = true →
    l = [.pack, .unpack] ∨ l = [.pack, .csumw, .unpack] →
    ∃ t, runOps l s = .next t ∧ t.err = .none ∧
      resCommand t = { s.cmd with temp := BitVec.ofNat 8 (max 16 (min 32 s.cmd.temp.toNat)) }

/-- 40_payload_codec.md R109: temp 10 packs as temp 16 and temp 40 as temp 32, and more generally any two temperatures
that clamp alike, down to the frame on the wire. -/
def Obligations.TemperaturesThatClampAlikePackAlike : Prop :=
  (∀ (s : State) (c : Command),
    ∃ t u v w, exec .pack (s.setCmd { c with temp := 10 }) = .next t ∧ exec .pack (s.setCmd { c with temp := 16 }) = .next u ∧
      t.buf = u.buf ∧ exec .pack (s.setCmd { c with temp := 40 }) = .next v ∧
      exec .pack (s.setCmd { c with temp := 32 }) = .next w ∧ v.buf = w.buf) ∧
  (∀ (s : State) (c : Command) (x y : Byte), max 16 (min 32 x.toNat) = max 16 (min 32 y.toNat) →
    ∃ t u, runOps [.pack, .csumw, .encode] (s.setCmd { c with temp := x }) = .next t ∧
      runOps [.pack, .csumw, .encode] (s.setCmd { c with temp := y }) = .next u ∧ t.buf = u.buf ∧ t.txq = u.txq)

/-! ## The checksum -/

/-- 41_checksum.md R130: `compute` is the unsigned sum of the seed and all bytes but the last, modulo 256, for every
sequence and seed; the last byte is never read; and the machine's checksum of a buffer is `compute` of its 13 bytes under
the dialect's seed. -/
def Obligations.ComputeIsTheSumModulo256 : Prop :=
  (∀ (b : List Byte) (last seed : Byte),
    (compute (b ++ [last]) seed).toNat = (seed.toNat + (b.map BitVec.toNat).sum) % 256) ∧
  (∀ (b : List Byte) (x y seed : Byte), compute (b ++ [x]) seed = compute (b ++ [y]) seed) ∧
  (∀ (d : Dialect) (b : Nat → Byte), checksumOf d b = compute ((List.range 13).map b) (byDialect d 0x00 0x0B))

/-- 41_checksum.md R131: `CSUMC` writes `SUM` alone; it is refused when a byte of `BUF[0..11]` was never written. -/
def Obligations.CsumcWritesTheChecksum : Prop :=
  (∀ (s : State) (b : Nat → Byte), bytesHeld s (List.range 12) b →
    exec .csumc s = .next (s.setSum (bufferSum s.dsel b))) ∧
  (∀ (s : State) (a : Nat), a < 12 → s.buf.read a = none → ∃ r, exec .csumc s = .refused r)

/-- 41_checksum.md R132: `CSUMW` writes `SUM` and byte 12, and a second `CSUMW` changes nothing. -/
def Obligations.CsumwWritesTheChecksumByte : Prop :=
  ∀ (s : State) (b : Nat → Byte), bytesHeld s (List.range 12) b →
    ∃ t, exec .csumw s = .next t ∧ storesByte (s.setSum (bufferSum s.dsel b)) t 12 (bufferSum s.dsel b) ∧
      exec .csumw t = .next t

/-- 41_checksum.md R135: after `CSUMW` the buffer is finalized, and a finalized buffer is what `CSUMV` reports. -/
def Obligations.CsumwFinalizesTheBuffer : Prop :=
  (∀ (s t : State) (b : Nat → Byte), exec .csumw s = .next t → bufferHolds t b → b 12 = bufferSum s.dsel b) ∧
  (∀ (s : State) (b : Nat → Byte), bufferHolds s b →
    ∃ t, exec .csumv s = .next t ∧ (t.csok = true ↔ b 12 = bufferSum s.dsel b))

/-- 41_checksum.md R133: `CSUMV` writes `SUM` and `CSOK` and nothing else; `ERR` and `FSM` are not touched. -/
def Obligations.CsumvComparesTheChecksum : Prop :=
  ∀ (s : State) (b : Nat → Byte), bufferHolds s b →
    exec .csumv s = .next ((s.setSum (bufferSum s.dsel b)).setCsok (decide (bufferSum s.dsel b = b 12)))

/-- 41_checksum.md section 3, R134 (the spec's own inference): flipping any one bit of any byte but the last changes
`compute`, for every sequence and seed. -/
def Obligations.SingleBitFlipChangesTheChecksum : Prop :=
  ∀ (b : List Byte) (seed x : Byte) (i k : Nat), i + 1 < b.length → k < 8 → b[i]? = some x →
    compute (b.set i (x ^^^ (1#8 <<< k))) seed ≠ compute b seed

/-! ## The timing encoder -/

/-- 42_timing_encoder.md R140 to R145: `ENCODE` replaces `TXQ` by the header, the 104 symbols in wire order and, in
Dialect A only, the trailer, and changes nothing else; it is refused when a byte was never written. -/
def Obligations.EncodeEmitsTheFrame : Prop :=
  (∀ (s : State) (b : Nat → Byte), bufferHolds s b →
    ∃ q, exec .encode s = .next (s.setTxq q) ∧ q.length = byDialect s.dsel 106 105 ∧
      q[0]? = some (byDialect s.dsel ⟨8968, 4425⟩ ⟨9166, 4470⟩) ∧
      (∀ n < 104, q[n + 1]? = some
        (if (b (n / 8)).getLsbD (n % 8) then byDialect s.dsel ⟨600, 1650⟩ ⟨646, 547⟩
        else byDialect s.dsel ⟨600, 500⟩ ⟨646, 1647⟩)) ∧
      q[105]? = byDialect s.dsel (some ⟨600, 8968⟩) none) ∧
  (∀ (s : State) (a : Nat), a < 13 → s.buf.read a = none → ∃ r, exec .encode s = .refused r)

/-- 42_timing_encoder.md section 3, R148 (the spec's own inference): different buffers give different frames. -/
def Obligations.FramesOfDifferentBuffersDiffer : Prop :=
  ∀ (d : Dialect) (b b' : Nat → Byte), encodeFrame d b = encodeFrame d b' → ∀ i < 13, b i = b' i

/-- 70_reset_and_hazards.md section 4, R230 (the spec's own inference): the air time of a frame, from the number of its
one bits. -/
def Obligations.AirTimeOfAFrame : Prop :=
  ∀ b : Nat → Byte, let ones := ((List.range 104).filter (fun n => (b (n / 8)).getLsbD (n % 8))).length
    airTime (encodeFrame .A b) = 85361 + 1650 * ones + 500 * (104 - ones) ∧
    airTime (encodeFrame .B b) = 80820 + 547 * ones + 1647 * (104 - ones)

/-! ## The timing decoder and the validator -/

/-- 43_timing_decoder.md R152, 60_exceptions.md R182: with no pulse, or a first pulse that does not match the header,
`DEMOD` and `DECODE` complete with `HeaderMismatch`, `POS` 0 and the fill in `BUF`, and no other register changes. -/
def Obligations.FirstPulseNotTheHeaderIsHeaderMismatch : Prop :=
  ∀ (s : State) (i : Instr), i = .demod ∨ i = .decode →
    (∀ p, s.rxq[0]? = some p → pulseMatches s.matcher p (headerPulse s.dsel) = false) →
    ∃ t, exec i s = .next t ∧ bufferHolds t (fun _ => byDialect s.dsel 0x00 0xFF) ∧
      t = rejectedWith .headerMismatch ((s.setBuf t.buf).setPos 0)

/-- 43_timing_decoder.md R153, R154, R159, 60_exceptions.md R183: a header and `n < 104` good bit pulses, and then no
pulse or one that matches neither symbol: `DEMOD` and `DECODE` complete with `TruncatedMessage`, `POS` is `1 + n`, the
bits read stand in `BUF` with the fill after them, and no other register changes. -/
def Obligations.MissingOrBadBitPulseIsTruncatedMessage : Prop :=
  ∀ (s : State) (i : Instr) (bits : Nat → Bool) (n : Nat), i = .demod ∨ i = .decode → n < 104 →
    startsWithHeader s.dsel s.matcher s.rxq → bitsRead s.dsel s.matcher s.rxq bits n →
    noSymbolAt s.dsel s.matcher s.rxq (n + 1) →
    ∃ t, exec i s = .next t ∧ bufferAfterBits t bits n ∧
      t = rejectedWith .truncatedMessage ((s.setBuf t.buf).setPos (1 + n))

/-- 43_timing_decoder.md R151, R155 to R158: a header and 104 good bit pulses, whatever follows: `DEMOD` completes in
`Validating` with `ERR` None, `POS` 105 and the 104 bits in `BUF`, the one-symbol being tried first on a pulse that
matches both; no other register changes. -/
def Obligations.CompleteCaptureDemodulates : Prop :=
  ∀ (s : State) (bits : Nat → Bool),
    startsWithHeader s.dsel s.matcher s.rxq → bitsRead s.dsel s.matcher s.rxq bits 104 →
    ∃ t, exec .demod s = .next t ∧ bufferAfterBits t bits 104 ∧
      t = { s with buf := t.buf, pos := 105, err := .none, fsm := .validating }

/-- 10_state.md R25: `DEMOD` always ends in `Validating` or `Rejected`, `DECODE` and a `VALIDATE` that is not refused in
`Accepted` or `Rejected`, whatever `FSM` held; no other operation reads or writes `FSM`. -/
def Obligations.DecoderOperationsMoveFsm : Prop :=
  (∀ s : State, ∃ t, exec .demod s = .next t ∧ (t.fsm = .validating ∨ t.fsm = .rejected)) ∧
  (∀ s : State, ∃ t, exec .decode s = .next t ∧ (t.fsm = .accepted ∨ t.fsm = .rejected)) ∧
  (∀ s t : State, exec .validate s = .next t → t.fsm = .accepted ∨ t.fsm = .rejected) ∧
  (∀ (i : Instr) (s : State) (f : Fsm), i = .demod ∨ i = .validate ∨ i = .decode → exec i (s.setFsm f) = exec i s) ∧
  (∀ (i : Instr) (s t : State) (f : Fsm), i ≠ .demod → i ≠ .validate → i ≠ .decode → exec i s = .next t →
    t.fsm = s.fsm ∧ exec i (s.setFsm f) = .next (t.setFsm f))

/-- 43_timing_decoder.md R161 to R166: `VALIDATE` on every written buffer: the first failing check of identity, mode,
swing, fan speed rejects and leaves `SUM` and `CSOK` alone; then the checksum is compared; a buffer that passes all five
is accepted and its Command written to `RES`. `BUF`, `RXQ`, `POS` and every register not named stay. -/
def Obligations.ValidateRunsTheCascade : Prop :=
  ∀ (s : State) (b : Nat → Byte), bufferHolds s b →
    exec .validate s = .next
      (match fieldFailure s.dsel b with
      | some r => rejectedWith r s
      | none =>
        let c := (s.setSum (bufferSum s.dsel b)).setCsok (decide (bufferSum s.dsel b = b 12))
        if bufferSum s.dsel b = b 12 then ((c.setResCommand (fieldsOf s.dsel b)).setErr .none).setFsm .accepted
        else rejectedWith .checksumMismatch c)

/-- 43_timing_decoder.md section 3, R171 (the spec's own inference): the buffers that `VALIDATE` accepts are exactly
those with the right identity, legal codes and the right checksum; reserved bits, the temperature and the power bit play
no part. -/
def Obligations.ValidateAcceptsExactlyTheLegalBuffers : Prop :=
  ∀ (s t : State) (b : Nat → Byte), bufferHolds s b → exec .validate s = .next t →
    (t.fsm = .accepted ↔
      b 0 = byDialect s.dsel 0xC3 0x3C ∧
      (ext (b 6) 0 3 = 0x1 ∨ ext (b 6) 0 3 = 0x5 ∨ ext (b 6) 0 3 = 0x6 ∨ ext (b 6) 0 3 = 0x7) ∧
      (ext (b 1) 0 3 = 0x0 ∨ ext (b 1) 0 3 = 0x7) ∧
      (ext (b 4) 0 4 = 0x5 ∨ ext (b 4) 0 4 = 0x9 ∨ ext (b 4) 0 4 = 0xB ∨ ext (b 4) 0 4 = 0xD) ∧
      b 12 = bufferSum s.dsel b)

/-- 43_timing_decoder.md R169: `DECODE` is `DEMOD`, then `VALIDATE` if `FSM` is `Validating`, and it never stops. -/
def Obligations.DecodeIsDemodThenValidate : Prop :=
  ∀ s : State, (∃ t, exec .decode s = .next t) ∧
    exec .decode s = andThen (exec .demod s) (fun t => if t.fsm = .validating then exec .validate t else .next t)

/-- 43_timing_decoder.md section 4, R170 (the spec's own inference): in every state `DECODE` computes exactly the
function `decode(seq, cfg, MATCH)`, which reads the captured sequence by position and knows no state machine. -/
def Obligations.DecodeComputesTheDecodeFunction : Prop :=
  ∀ s : State, ∃ t, exec .decode s = .next t ∧ shows t (decodeVerdict s.dsel s.matcher s.rxq)

/-- 43_timing_decoder.md section 4, R172 (the spec's own inference), in either dialect and for every `MATCH` with P-REFL
and P-DISJ: a legal Command that is packed, finalized and encoded, and whose frame is handed to the receiver, is decoded
to itself, and the buffer is the one that was sent. R172 asks for P-REFL alone; see log 15. -/
def Obligations.TransmittedCommandIsReceived : Prop :=
  ∀ s : State, s.written.cmd = true → Command.legal s.cmd = true → SeparatesSymbols s.dsel s.matcher →
    ∃ t u, runOps (expandPseudo .transmit) s = .next t ∧
      runOps (expandPseudo .receive) (t.setRxq t.txq) = .next u ∧
      u.fsm = .accepted ∧ u.err = .none ∧ resCommand u = s.cmd ∧ u.buf = t.buf

/-- 43_timing_decoder.md section 4, R172 as it is written, for every `MATCH` with P-REFL alone. Under R157 it fails for
a `MATCH` that takes a zero-symbol for a one-symbol (log 15); it is stated to be refuted. -/
def Obligations.TransmittedCommandIsReceivedWithoutDisjointness : Prop :=
  ∀ s : State, s.written.cmd = true → Command.legal s.cmd = true →
    ∃ t u, runOps (expandPseudo .transmit) s = .next t ∧
      runOps (expandPseudo .receive) (t.setRxq t.txq) = .next u ∧
      u.fsm = .accepted ∧ u.err = .none ∧ resCommand u = s.cmd ∧ u.buf = t.buf

/-- 70_reset_and_hazards.md section 3, R221 (the spec's own inference): a frame sent after `PACK` without `CSUMW` is
rejected with `ChecksumMismatch`, unless the true checksum is 0x00. -/
def Obligations.UnfinalizedFrameIsRejected : Prop :=
  ∀ s : State, s.written.cmd = true → Command.legalEnums s.cmd = true → SeparatesSymbols s.dsel s.matcher →
    ∃ t u b, runOps [.pack, .encode] s = .next t ∧ bufferHolds t b ∧ exec .decode (t.setRxq t.txq) = .next u ∧
      (bufferSum s.dsel b ≠ 0x00 → u.fsm = .rejected ∧ u.err = .checksumMismatch ∧ u.sum = bufferSum s.dsel b ∧
        u.csok = false)

/-- 43_timing_decoder.md section 4, R173 (the spec's own inference): with the exact matcher a frame of the other dialect
is rejected with `HeaderMismatch`. -/
def Obligations.OtherDialectsFrameIsHeaderMismatch : Prop :=
  ∀ (s : State) (d : Dialect) (b : Nat → Byte), d ≠ s.dsel → s.matcher = Matcher.exact → s.rxq = encodeFrame d b →
    ∃ t, exec .decode s = .next t ∧ t.fsm = .rejected ∧ t.err = .headerMismatch

/-- 43_timing_decoder.md section 4, R173 (the spec's own inference): with a matcher that takes the other dialect's
header and symbols for its own, demodulation yields the bitwise complement of the sent bytes, and a frame with the
sender's identity and legal codes is rejected with `FieldInvalid(mode)` or `FieldInvalid(fanSpeed)`. -/
def Obligations.TolerantReceiverComplementsTheOtherDialect : Prop :=
  ∀ (s : State) (d : Dialect) (b : Nat → Byte), d ≠ s.dsel → s.rxq = encodeFrame d b →
    pulseMatches s.matcher (headerPulse d) (headerPulse s.dsel) = true →
    pulseMatches s.matcher (onePulse d) (onePulse s.dsel) = true →
    pulseMatches s.matcher (zeroPulse d) (onePulse s.dsel) = false →
    pulseMatches s.matcher (zeroPulse d) (zeroPulse s.dsel) = true →
    (∃ t, exec .demod s = .next t ∧ t.fsm = .validating ∧ bufferHolds t (fun i => ~~~(b i))) ∧
    (fieldFailure d b = none → ∃ t, exec .decode s = .next t ∧ t.fsm = .rejected ∧
      (t.err = .fieldInvalid .mode ∨ t.err = .fieldInvalid .fanSpeed))

/-! ## Frames, refusals, dependence -/

/-- 40_payload_codec.md section 1, 60_exceptions.md section 7: an operation completes exactly when every operand that its
rule lists has been written since reset; otherwise it is refused, with no next state. It is the model's reading that
`UNPACK` and `VALIDATE` need all the operands listed, also where an early check would have ended them (log 10), and the
model's choice which missing operand the refusal names (log 11). -/
def Obligations.OperationsCompleteExactlyWhenOperandsAreWritten : Prop :=
  ∀ (i : Instr) (s : State),
    (operandsAvailable i s = true → ∃ t, exec i s = .next t) ∧
    (operandsAvailable i s = false →
      (readsCmd i = true ∧ s.written.cmd = false ∧ exec i s = .refused .cmdHasNoValue) ∨
      (∃ a ∈ readsBytes i, s.buf.read a = none ∧ exec i s = .refused (.bufByteHasNoValue a)))

/-- The frame of `BUF` for every operation: every byte but those it stores to reads as before. -/
def Obligations.OperationsLeaveOtherBytesAlone : Prop :=
  ∀ (i : Instr) (s t : State) (a : Nat), s.buf.wf = true → exec i s = .next t → a ∉ storesTo i →
    t.buf.read a = s.buf.read a

/-- The frame of the registers for every operation, from the "written by" of each register (10_state.md sections 3 to
8): `CMD`, `RXQ`, `DSEL` are written by none; each other register by the operations its rule lists and by no other. -/
def Obligations.RegistersAreWrittenOnlyByTheirWriters : Prop :=
  ∀ (i : Instr) (s t : State), exec i s = .next t →
    t.dsel = s.dsel ∧ t.matcher = s.matcher ∧ t.cmd = s.cmd ∧ t.written.cmd = s.written.cmd ∧ t.rxq = s.rxq ∧
    t.pending = s.pending ∧
    (i ≠ .encode → t.txq = s.txq) ∧
    (i ∉ [.csumc, .csumw, .csumv, .validate, .decode] → t.sum = s.sum ∧ t.written.sum = s.written.sum) ∧
    (i ∉ [.csumv, .validate, .decode] → t.csok = s.csok) ∧
    (i ≠ .getid → t.res.ident = s.res.ident ∧ t.written.ident = s.written.ident) ∧
    (i ∉ [.getpwr, .unpack, .validate, .decode] → t.res.power = s.res.power ∧ t.written.power = s.written.power) ∧
    (i ∉ [.getmode, .unpack, .validate, .decode] → t.res.mode = s.res.mode ∧ t.written.mode = s.written.mode) ∧
    (i ∉ [.getfan, .unpack, .validate, .decode] → t.res.fan = s.res.fan ∧ t.written.fan = s.written.fan) ∧
    (i ∉ [.getswing, .unpack, .validate, .decode] → t.res.swing = s.res.swing ∧ t.written.swing = s.written.swing) ∧
    (i ∉ [.gettemp, .unpack, .validate, .decode] → t.res.temp = s.res.temp ∧ t.written.temp = s.written.temp) ∧
    (i ≠ .getcsum → t.res.csum = s.res.csum ∧ t.written.csum = s.written.csum) ∧
    (i ∉ [.unpack, .demod, .validate, .decode] → t.err = s.err) ∧
    (i ∉ [.demod, .decode] → t.pos = s.pos) ∧
    (i ∉ [.demod, .validate, .decode] → t.fsm = s.fsm)

/-- 60_exceptions.md R193: the transmit-side operations and the accessors never raise a rejection: they never write
`ERR` or `FSM`. -/
def Obligations.TransmitSideAndAccessorsNeverReject : Prop :=
  ∀ (i : Instr) (s t : State),
    i ∈ [.pnew, .pack, .setid, .setpwr, .setmode, .setfan, .setswing, .settemp, .csumc, .csumw, .encode, .getid,
      .getpwr, .getmode, .getfan, .getswing, .gettemp, .getcsum, .csumv] →
    exec i s = .next t → t.err = s.err ∧ t.fsm = s.fsm

/-- 60_exceptions.md section 4: what a rejection leaves. `FSM` is `Rejected` with a reason in `ERR` (after `UNPACK` the
reason alone), no field of `RES` is written, and `CMD`, `TXQ`, `RXQ` and, in `VALIDATE` and `UNPACK`, `BUF` stay. -/
def Obligations.RejectionsArePrecise : Prop :=
  (∀ (i : Instr) (s t : State), i ∈ [.demod, .validate, .decode] → exec i s = .next t → t.fsm = .rejected →
    t.err ≠ .none ∧ t.res = s.res ∧ t.written = { s.written with sum := t.written.sum } ∧ t.cmd = s.cmd ∧
      t.txq = s.txq ∧ t.rxq = s.rxq ∧ (i = .validate → t.buf = s.buf ∧ t.pos = s.pos)) ∧
  (∀ s t : State, exec .unpack s = .next t → t.err ≠ .none → ∃ r, t = s.setErr r)

/-- 60_exceptions.md R192: an attempt starts afresh: what `DEMOD` and `DECODE` do does not depend on the `FSM`, `ERR`,
`POS` and `BUF` that an earlier attempt left. -/
def Obligations.EveryAttemptStartsAfresh : Prop :=
  ∀ (s : State) (i : Instr) (buf : Memory) (r : Reason) (n : Nat) (f : Fsm), i = .demod ∨ i = .decode →
    exec i ((((s.setBuf buf).setErr r).setPos n).setFsm f) = exec i s

/-- 10_state.md section 11, 60_exceptions.md section 9: no flag, result or diagnostic register decides what an operation
does. If an operation completes in one of two states with the same `DSEL`, `MATCH`, `CMD`, `BUF` and `RXQ`, it completes in
the other, with the same `BUF` and the same value of every register, and of every field of `RES`, that it writes. -/
def Obligations.ResultsDependOnlyOnOperands : Prop :=
  ∀ (i : Instr) (s s' t : State), s'.dsel = s.dsel → s'.matcher = s.matcher → s'.cmd = s.cmd →
    s'.written.cmd = s.written.cmd → s'.buf = s.buf → s'.rxq = s.rxq → exec i s = .next t →
    ∃ t', exec i s' = .next t' ∧ t'.buf = t.buf ∧
      (i = .encode → t'.txq = t.txq) ∧
      (i = .csumc ∨ i = .csumw ∨ comparesChecksum i t → t'.sum = t.sum ∧ t'.written.sum = t.written.sum) ∧
      (comparesChecksum i t → t'.csok = t.csok) ∧
      (i ∈ [.demod, .decode] → t'.pos = t.pos) ∧
      (i ∈ [.demod, .validate, .decode] → t'.fsm = t.fsm) ∧
      (i ∈ [.unpack, .demod, .validate, .decode] → t'.err = t.err) ∧
      (∀ f ∈ resFieldsWritten i t, resField t' f = resField t f)

/-- 00_scope.md section 4, log 2: every matching table has P-REFL, and every function of two pulse pairs that has P-REFL
is the function of some table, so that a statement for every state is a statement for every `MATCH` the spec admits. -/
def Obligations.MatchingTablesAreTheReflexiveFunctions : Prop :=
  (∀ (m : Matcher) (p : Pulse), pulseMatches m p p = true) ∧
  (∀ f : Pulse → Pulse → Bool, (∀ p, f p p = true) → ∃ m : Matcher, ∀ o n, pulseMatches m o n = f o n)
end

