-- ==== Sys2Proof/Laws/Bits.lean ====
section
/-! SUPPORT. The bit-field primitives bit by bit. -/

namespace Sys2Proof.Laws

open Sys2Proof.Machine

/-- Bit `k` of an extracted field is bit `off + k` of the byte. -/
@[simp] theorem getLsbD_ext (b : Byte) (off w k : Nat) :
    (ext b off w).getLsbD k = (decide (k < w) && b.getLsbD (off + k)) := by
  simp [ext]

/-- Bit `k` of a field's mask. -/
theorem getLsbD_fieldMask (off w k : Nat) :
    (fieldMask off w).getLsbD k = (decide (k < 8) && (decide (off ≤ k) && decide (k < off + w))) := by
  simp only [fieldMask, BitVec.getLsbD_shiftLeft, BitVec.getLsbD_setWidth, BitVec.getLsbD_allOnes]
  rw [Bool.eq_iff_iff]
  simp only [Bool.and_eq_true, Bool.not_eq_true', decide_eq_true_eq, decide_eq_false_iff_not]
  omega

/-- An inserted field: its own bits come from the value, every other bit from the byte. -/
theorem getLsbD_ins {w : Nat} (b : Byte) (off : Nat) (v : BitVec w) (k : Nat) (hk : k < 8) :
    (ins b off v).getLsbD k = if off ≤ k ∧ k < off + w then v.getLsbD (k - off) else b.getLsbD k := by
  simp only [ins, BitVec.getLsbD_or, BitVec.getLsbD_and, BitVec.getLsbD_not, getLsbD_fieldMask,
    BitVec.getLsbD_shiftLeft, BitVec.getLsbD_setWidth]
  by_cases ho : off ≤ k <;> by_cases hw : k < off + w <;>
    simp [hk, ho, hw, Nat.not_lt.mpr, show k - off < 8 by omega]

/-- Reading a field back gives the value inserted. -/
theorem ext_ins {w : Nat} (b : Byte) (off : Nat) (v : BitVec w) (h : off + w ≤ 8) : ext (ins b off v) off w = v := by
  apply BitVec.eq_of_getLsbD_eq
  intro k hk
  rw [getLsbD_ext, getLsbD_ins b off v (off + k) (by omega)]
  simp [hk]

/-- A field that shares no bit with the inserted one reads as before. -/
theorem ext_ins_disjoint {w : Nat} (b : Byte) (off : Nat) (v : BitVec w) (off' w' : Nat) (h : off' + w' ≤ 8)
    (hd : off' + w' ≤ off ∨ off + w ≤ off') : ext (ins b off v) off' w' = ext b off' w' := by
  apply BitVec.eq_of_getLsbD_eq
  intro k hk
  rw [getLsbD_ext, getLsbD_ext, getLsbD_ins b off v (off' + k) (by omega), if_neg (by omega)]

/-- A byte is the eight bits it is made of. -/
theorem byte_eq_of_bits {a b : Byte} (h : ∀ k < 8, a.getLsbD k = b.getLsbD k) : a = b :=
  BitVec.eq_of_getLsbD_eq h

end Sys2Proof.Laws
end

