-- ==== Sys2Proof/Laws/State.lean ====
section
/-! SUPPORT. What each register write of Sys2Proof/Machine/Ops.lean does to each field of the state: one lemma per field
per update, so that no proof unfolds a record update. -/

namespace Sys2Proof.Machine.State

variable (s : State)

/-! ### setBuf -/
@[simp] theorem setBuf_dsel (m : Memory) : (s.setBuf m).dsel = s.dsel := rfl
@[simp] theorem setBuf_matcher (m : Memory) : (s.setBuf m).matcher = s.matcher := rfl
@[simp] theorem setBuf_cmd (m : Memory) : (s.setBuf m).cmd = s.cmd := rfl
@[simp] theorem setBuf_buf (m : Memory) : (s.setBuf m).buf = m := rfl
@[simp] theorem setBuf_sum (m : Memory) : (s.setBuf m).sum = s.sum := rfl
@[simp] theorem setBuf_csok (m : Memory) : (s.setBuf m).csok = s.csok := rfl
@[simp] theorem setBuf_res (m : Memory) : (s.setBuf m).res = s.res := rfl
@[simp] theorem setBuf_written (m : Memory) : (s.setBuf m).written = s.written := rfl
@[simp] theorem setBuf_err (m : Memory) : (s.setBuf m).err = s.err := rfl
@[simp] theorem setBuf_txq (m : Memory) : (s.setBuf m).txq = s.txq := rfl
@[simp] theorem setBuf_rxq (m : Memory) : (s.setBuf m).rxq = s.rxq := rfl
@[simp] theorem setBuf_pos (m : Memory) : (s.setBuf m).pos = s.pos := rfl
@[simp] theorem setBuf_fsm (m : Memory) : (s.setBuf m).fsm = s.fsm := rfl
@[simp] theorem setBuf_pending (m : Memory) : (s.setBuf m).pending = s.pending := rfl

/-! ### setCmd -/
@[simp] theorem setCmd_dsel (c : Command) : (s.setCmd c).dsel = s.dsel := rfl
@[simp] theorem setCmd_matcher (c : Command) : (s.setCmd c).matcher = s.matcher := rfl
@[simp] theorem setCmd_cmd (c : Command) : (s.setCmd c).cmd = c := rfl
@[simp] theorem setCmd_buf (c : Command) : (s.setCmd c).buf = s.buf := rfl
@[simp] theorem setCmd_sum (c : Command) : (s.setCmd c).sum = s.sum := rfl
@[simp] theorem setCmd_csok (c : Command) : (s.setCmd c).csok = s.csok := rfl
@[simp] theorem setCmd_res (c : Command) : (s.setCmd c).res = s.res := rfl
@[simp] theorem setCmd_written (c : Command) : (s.setCmd c).written = { s.written with cmd := true } := rfl
@[simp] theorem setCmd_err (c : Command) : (s.setCmd c).err = s.err := rfl
@[simp] theorem setCmd_txq (c : Command) : (s.setCmd c).txq = s.txq := rfl
@[simp] theorem setCmd_rxq (c : Command) : (s.setCmd c).rxq = s.rxq := rfl
@[simp] theorem setCmd_pos (c : Command) : (s.setCmd c).pos = s.pos := rfl
@[simp] theorem setCmd_fsm (c : Command) : (s.setCmd c).fsm = s.fsm := rfl
@[simp] theorem setCmd_pending (c : Command) : (s.setCmd c).pending = s.pending := rfl

/-! ### setSum -/
@[simp] theorem setSum_dsel (v : Byte) : (s.setSum v).dsel = s.dsel := rfl
@[simp] theorem setSum_matcher (v : Byte) : (s.setSum v).matcher = s.matcher := rfl
@[simp] theorem setSum_cmd (v : Byte) : (s.setSum v).cmd = s.cmd := rfl
@[simp] theorem setSum_buf (v : Byte) : (s.setSum v).buf = s.buf := rfl
@[simp] theorem setSum_sum (v : Byte) : (s.setSum v).sum = v := rfl
@[simp] theorem setSum_csok (v : Byte) : (s.setSum v).csok = s.csok := rfl
@[simp] theorem setSum_res (v : Byte) : (s.setSum v).res = s.res := rfl
@[simp] theorem setSum_written (v : Byte) : (s.setSum v).written = { s.written with sum := true } := rfl
@[simp] theorem setSum_err (v : Byte) : (s.setSum v).err = s.err := rfl
@[simp] theorem setSum_txq (v : Byte) : (s.setSum v).txq = s.txq := rfl
@[simp] theorem setSum_rxq (v : Byte) : (s.setSum v).rxq = s.rxq := rfl
@[simp] theorem setSum_pos (v : Byte) : (s.setSum v).pos = s.pos := rfl
@[simp] theorem setSum_fsm (v : Byte) : (s.setSum v).fsm = s.fsm := rfl
@[simp] theorem setSum_pending (v : Byte) : (s.setSum v).pending = s.pending := rfl

/-! ### setCsok -/
@[simp] theorem setCsok_dsel (v : Bool) : (s.setCsok v).dsel = s.dsel := rfl
@[simp] theorem setCsok_matcher (v : Bool) : (s.setCsok v).matcher = s.matcher := rfl
@[simp] theorem setCsok_cmd (v : Bool) : (s.setCsok v).cmd = s.cmd := rfl
@[simp] theorem setCsok_buf (v : Bool) : (s.setCsok v).buf = s.buf := rfl
@[simp] theorem setCsok_sum (v : Bool) : (s.setCsok v).sum = s.sum := rfl
@[simp] theorem setCsok_csok (v : Bool) : (s.setCsok v).csok = v := rfl
@[simp] theorem setCsok_res (v : Bool) : (s.setCsok v).res = s.res := rfl
@[simp] theorem setCsok_written (v : Bool) : (s.setCsok v).written = s.written := rfl
@[simp] theorem setCsok_err (v : Bool) : (s.setCsok v).err = s.err := rfl
@[simp] theorem setCsok_txq (v : Bool) : (s.setCsok v).txq = s.txq := rfl
@[simp] theorem setCsok_rxq (v : Bool) : (s.setCsok v).rxq = s.rxq := rfl
@[simp] theorem setCsok_pos (v : Bool) : (s.setCsok v).pos = s.pos := rfl
@[simp] theorem setCsok_fsm (v : Bool) : (s.setCsok v).fsm = s.fsm := rfl
@[simp] theorem setCsok_pending (v : Bool) : (s.setCsok v).pending = s.pending := rfl

/-! ### setErr -/
@[simp] theorem setErr_dsel (r : Reason) : (s.setErr r).dsel = s.dsel := rfl
@[simp] theorem setErr_matcher (r : Reason) : (s.setErr r).matcher = s.matcher := rfl
@[simp] theorem setErr_cmd (r : Reason) : (s.setErr r).cmd = s.cmd := rfl
@[simp] theorem setErr_buf (r : Reason) : (s.setErr r).buf = s.buf := rfl
@[simp] theorem setErr_sum (r : Reason) : (s.setErr r).sum = s.sum := rfl
@[simp] theorem setErr_csok (r : Reason) : (s.setErr r).csok = s.csok := rfl
@[simp] theorem setErr_res (r : Reason) : (s.setErr r).res = s.res := rfl
@[simp] theorem setErr_written (r : Reason) : (s.setErr r).written = s.written := rfl
@[simp] theorem setErr_err (r : Reason) : (s.setErr r).err = r := rfl
@[simp] theorem setErr_txq (r : Reason) : (s.setErr r).txq = s.txq := rfl
@[simp] theorem setErr_rxq (r : Reason) : (s.setErr r).rxq = s.rxq := rfl
@[simp] theorem setErr_pos (r : Reason) : (s.setErr r).pos = s.pos := rfl
@[simp] theorem setErr_fsm (r : Reason) : (s.setErr r).fsm = s.fsm := rfl
@[simp] theorem setErr_pending (r : Reason) : (s.setErr r).pending = s.pending := rfl

/-! ### setFsm -/
@[simp] theorem setFsm_dsel (f : Fsm) : (s.setFsm f).dsel = s.dsel := rfl
@[simp] theorem setFsm_matcher (f : Fsm) : (s.setFsm f).matcher = s.matcher := rfl
@[simp] theorem setFsm_cmd (f : Fsm) : (s.setFsm f).cmd = s.cmd := rfl
@[simp] theorem setFsm_buf (f : Fsm) : (s.setFsm f).buf = s.buf := rfl
@[simp] theorem setFsm_sum (f : Fsm) : (s.setFsm f).sum = s.sum := rfl
@[simp] theorem setFsm_csok (f : Fsm) : (s.setFsm f).csok = s.csok := rfl
@[simp] theorem setFsm_res (f : Fsm) : (s.setFsm f).res = s.res := rfl
@[simp] theorem setFsm_written (f : Fsm) : (s.setFsm f).written = s.written := rfl
@[simp] theorem setFsm_err (f : Fsm) : (s.setFsm f).err = s.err := rfl
@[simp] theorem setFsm_txq (f : Fsm) : (s.setFsm f).txq = s.txq := rfl
@[simp] theorem setFsm_rxq (f : Fsm) : (s.setFsm f).rxq = s.rxq := rfl
@[simp] theorem setFsm_pos (f : Fsm) : (s.setFsm f).pos = s.pos := rfl
@[simp] theorem setFsm_fsm (f : Fsm) : (s.setFsm f).fsm = f := rfl
@[simp] theorem setFsm_pending (f : Fsm) : (s.setFsm f).pending = s.pending := rfl

/-! ### setPos -/
@[simp] theorem setPos_dsel (n : Nat) : (s.setPos n).dsel = s.dsel := rfl
@[simp] theorem setPos_matcher (n : Nat) : (s.setPos n).matcher = s.matcher := rfl
@[simp] theorem setPos_cmd (n : Nat) : (s.setPos n).cmd = s.cmd := rfl
@[simp] theorem setPos_buf (n : Nat) : (s.setPos n).buf = s.buf := rfl
@[simp] theorem setPos_sum (n : Nat) : (s.setPos n).sum = s.sum := rfl
@[simp] theorem setPos_csok (n : Nat) : (s.setPos n).csok = s.csok := rfl
@[simp] theorem setPos_res (n : Nat) : (s.setPos n).res = s.res := rfl
@[simp] theorem setPos_written (n : Nat) : (s.setPos n).written = s.written := rfl
@[simp] theorem setPos_err (n : Nat) : (s.setPos n).err = s.err := rfl
@[simp] theorem setPos_txq (n : Nat) : (s.setPos n).txq = s.txq := rfl
@[simp] theorem setPos_rxq (n : Nat) : (s.setPos n).rxq = s.rxq := rfl
@[simp] theorem setPos_pos (n : Nat) : (s.setPos n).pos = n := rfl
@[simp] theorem setPos_fsm (n : Nat) : (s.setPos n).fsm = s.fsm := rfl
@[simp] theorem setPos_pending (n : Nat) : (s.setPos n).pending = s.pending := rfl

/-! ### setTxq -/
@[simp] theorem setTxq_dsel (q : List Pulse) : (s.setTxq q).dsel = s.dsel := rfl
@[simp] theorem setTxq_matcher (q : List Pulse) : (s.setTxq q).matcher = s.matcher := rfl
@[simp] theorem setTxq_cmd (q : List Pulse) : (s.setTxq q).cmd = s.cmd := rfl
@[simp] theorem setTxq_buf (q : List Pulse) : (s.setTxq q).buf = s.buf := rfl
@[simp] theorem setTxq_sum (q : List Pulse) : (s.setTxq q).sum = s.sum := rfl
@[simp] theorem setTxq_csok (q : List Pulse) : (s.setTxq q).csok = s.csok := rfl
@[simp] theorem setTxq_res (q : List Pulse) : (s.setTxq q).res = s.res := rfl
@[simp] theorem setTxq_written (q : List Pulse) : (s.setTxq q).written = s.written := rfl
@[simp] theorem setTxq_err (q : List Pulse) : (s.setTxq q).err = s.err := rfl
@[simp] theorem setTxq_txq (q : List Pulse) : (s.setTxq q).txq = q := rfl
@[simp] theorem setTxq_rxq (q : List Pulse) : (s.setTxq q).rxq = s.rxq := rfl
@[simp] theorem setTxq_pos (q : List Pulse) : (s.setTxq q).pos = s.pos := rfl
@[simp] theorem setTxq_fsm (q : List Pulse) : (s.setTxq q).fsm = s.fsm := rfl
@[simp] theorem setTxq_pending (q : List Pulse) : (s.setTxq q).pending = s.pending := rfl

/-! ### setRxq -/
@[simp] theorem setRxq_dsel (q : List Pulse) : (s.setRxq q).dsel = s.dsel := rfl
@[simp] theorem setRxq_matcher (q : List Pulse) : (s.setRxq q).matcher = s.matcher := rfl
@[simp] theorem setRxq_cmd (q : List Pulse) : (s.setRxq q).cmd = s.cmd := rfl
@[simp] theorem setRxq_buf (q : List Pulse) : (s.setRxq q).buf = s.buf := rfl
@[simp] theorem setRxq_sum (q : List Pulse) : (s.setRxq q).sum = s.sum := rfl
@[simp] theorem setRxq_csok (q : List Pulse) : (s.setRxq q).csok = s.csok := rfl
@[simp] theorem setRxq_res (q : List Pulse) : (s.setRxq q).res = s.res := rfl
@[simp] theorem setRxq_written (q : List Pulse) : (s.setRxq q).written = s.written := rfl
@[simp] theorem setRxq_err (q : List Pulse) : (s.setRxq q).err = s.err := rfl
@[simp] theorem setRxq_txq (q : List Pulse) : (s.setRxq q).txq = s.txq := rfl
@[simp] theorem setRxq_rxq (q : List Pulse) : (s.setRxq q).rxq = q := rfl
@[simp] theorem setRxq_pos (q : List Pulse) : (s.setRxq q).pos = s.pos := rfl
@[simp] theorem setRxq_fsm (q : List Pulse) : (s.setRxq q).fsm = s.fsm := rfl
@[simp] theorem setRxq_pending (q : List Pulse) : (s.setRxq q).pending = s.pending := rfl

/-! ### setPending -/
@[simp] theorem setPending_dsel (es : List Event) : (s.setPending es).dsel = s.dsel := rfl
@[simp] theorem setPending_matcher (es : List Event) : (s.setPending es).matcher = s.matcher := rfl
@[simp] theorem setPending_cmd (es : List Event) : (s.setPending es).cmd = s.cmd := rfl
@[simp] theorem setPending_buf (es : List Event) : (s.setPending es).buf = s.buf := rfl
@[simp] theorem setPending_sum (es : List Event) : (s.setPending es).sum = s.sum := rfl
@[simp] theorem setPending_csok (es : List Event) : (s.setPending es).csok = s.csok := rfl
@[simp] theorem setPending_res (es : List Event) : (s.setPending es).res = s.res := rfl
@[simp] theorem setPending_written (es : List Event) : (s.setPending es).written = s.written := rfl
@[simp] theorem setPending_err (es : List Event) : (s.setPending es).err = s.err := rfl
@[simp] theorem setPending_txq (es : List Event) : (s.setPending es).txq = s.txq := rfl
@[simp] theorem setPending_rxq (es : List Event) : (s.setPending es).rxq = s.rxq := rfl
@[simp] theorem setPending_pos (es : List Event) : (s.setPending es).pos = s.pos := rfl
@[simp] theorem setPending_fsm (es : List Event) : (s.setPending es).fsm = s.fsm := rfl
@[simp] theorem setPending_pending (es : List Event) : (s.setPending es).pending = es := rfl

/-! ### setResIdent -/
@[simp] theorem setResIdent_dsel (v : Byte) : (s.setResIdent v).dsel = s.dsel := rfl
@[simp] theorem setResIdent_matcher (v : Byte) : (s.setResIdent v).matcher = s.matcher := rfl
@[simp] theorem setResIdent_cmd (v : Byte) : (s.setResIdent v).cmd = s.cmd := rfl
@[simp] theorem setResIdent_buf (v : Byte) : (s.setResIdent v).buf = s.buf := rfl
@[simp] theorem setResIdent_sum (v : Byte) : (s.setResIdent v).sum = s.sum := rfl
@[simp] theorem setResIdent_csok (v : Byte) : (s.setResIdent v).csok = s.csok := rfl
@[simp] theorem setResIdent_res (v : Byte) : (s.setResIdent v).res = { s.res with ident := v } := rfl
@[simp] theorem setResIdent_written (v : Byte) : (s.setResIdent v).written = { s.written with ident := true } := rfl
@[simp] theorem setResIdent_err (v : Byte) : (s.setResIdent v).err = s.err := rfl
@[simp] theorem setResIdent_txq (v : Byte) : (s.setResIdent v).txq = s.txq := rfl
@[simp] theorem setResIdent_rxq (v : Byte) : (s.setResIdent v).rxq = s.rxq := rfl
@[simp] theorem setResIdent_pos (v : Byte) : (s.setResIdent v).pos = s.pos := rfl
@[simp] theorem setResIdent_fsm (v : Byte) : (s.setResIdent v).fsm = s.fsm := rfl
@[simp] theorem setResIdent_pending (v : Byte) : (s.setResIdent v).pending = s.pending := rfl

/-! ### setResPower -/
@[simp] theorem setResPower_dsel (v : Bool) : (s.setResPower v).dsel = s.dsel := rfl
@[simp] theorem setResPower_matcher (v : Bool) : (s.setResPower v).matcher = s.matcher := rfl
@[simp] theorem setResPower_cmd (v : Bool) : (s.setResPower v).cmd = s.cmd := rfl
@[simp] theorem setResPower_buf (v : Bool) : (s.setResPower v).buf = s.buf := rfl
@[simp] theorem setResPower_sum (v : Bool) : (s.setResPower v).sum = s.sum := rfl
@[simp] theorem setResPower_csok (v : Bool) : (s.setResPower v).csok = s.csok := rfl
@[simp] theorem setResPower_res (v : Bool) : (s.setResPower v).res = { s.res with power := v } := rfl
@[simp] theorem setResPower_written (v : Bool) : (s.setResPower v).written = { s.written with power := true } := rfl
@[simp] theorem setResPower_err (v : Bool) : (s.setResPower v).err = s.err := rfl
@[simp] theorem setResPower_txq (v : Bool) : (s.setResPower v).txq = s.txq := rfl
@[simp] theorem setResPower_rxq (v : Bool) : (s.setResPower v).rxq = s.rxq := rfl
@[simp] theorem setResPower_pos (v : Bool) : (s.setResPower v).pos = s.pos := rfl
@[simp] theorem setResPower_fsm (v : Bool) : (s.setResPower v).fsm = s.fsm := rfl
@[simp] theorem setResPower_pending (v : Bool) : (s.setResPower v).pending = s.pending := rfl

/-! ### setResMode -/
@[simp] theorem setResMode_dsel (v : BitVec 3) : (s.setResMode v).dsel = s.dsel := rfl
@[simp] theorem setResMode_matcher (v : BitVec 3) : (s.setResMode v).matcher = s.matcher := rfl
@[simp] theorem setResMode_cmd (v : BitVec 3) : (s.setResMode v).cmd = s.cmd := rfl
@[simp] theorem setResMode_buf (v : BitVec 3) : (s.setResMode v).buf = s.buf := rfl
@[simp] theorem setResMode_sum (v : BitVec 3) : (s.setResMode v).sum = s.sum := rfl
@[simp] theorem setResMode_csok (v : BitVec 3) : (s.setResMode v).csok = s.csok := rfl
@[simp] theorem setResMode_res (v : BitVec 3) : (s.setResMode v).res = { s.res with mode := v } := rfl
@[simp] theorem setResMode_written (v : BitVec 3) : (s.setResMode v).written = { s.written with mode := true } := rfl
@[simp] theorem setResMode_err (v : BitVec 3) : (s.setResMode v).err = s.err := rfl
@[simp] theorem setResMode_txq (v : BitVec 3) : (s.setResMode v).txq = s.txq := rfl
@[simp] theorem setResMode_rxq (v : BitVec 3) : (s.setResMode v).rxq = s.rxq := rfl
@[simp] theorem setResMode_pos (v : BitVec 3) : (s.setResMode v).pos = s.pos := rfl
@[simp] theorem setResMode_fsm (v : BitVec 3) : (s.setResMode v).fsm = s.fsm := rfl
@[simp] theorem setResMode_pending (v : BitVec 3) : (s.setResMode v).pending = s.pending := rfl

/-! ### setResFan -/
@[simp] theorem setResFan_dsel (v : BitVec 4) : (s.setResFan v).dsel = s.dsel := rfl
@[simp] theorem setResFan_matcher (v : BitVec 4) : (s.setResFan v).matcher = s.matcher := rfl
@[simp] theorem setResFan_cmd (v : BitVec 4) : (s.setResFan v).cmd = s.cmd := rfl
@[simp] theorem setResFan_buf (v : BitVec 4) : (s.setResFan v).buf = s.buf := rfl
@[simp] theorem setResFan_sum (v : BitVec 4) : (s.setResFan v).sum = s.sum := rfl
@[simp] theorem setResFan_csok (v : BitVec 4) : (s.setResFan v).csok = s.csok := rfl
@[simp] theorem setResFan_res (v : BitVec 4) : (s.setResFan v).res = { s.res with fan := v } := rfl
@[simp] theorem setResFan_written (v : BitVec 4) : (s.setResFan v).written = { s.written with fan := true } := rfl
@[simp] theorem setResFan_err (v : BitVec 4) : (s.setResFan v).err = s.err := rfl
@[simp] theorem setResFan_txq (v : BitVec 4) : (s.setResFan v).txq = s.txq := rfl
@[simp] theorem setResFan_rxq (v : BitVec 4) : (s.setResFan v).rxq = s.rxq := rfl
@[simp] theorem setResFan_pos (v : BitVec 4) : (s.setResFan v).pos = s.pos := rfl
@[simp] theorem setResFan_fsm (v : BitVec 4) : (s.setResFan v).fsm = s.fsm := rfl
@[simp] theorem setResFan_pending (v : BitVec 4) : (s.setResFan v).pending = s.pending := rfl

/-! ### setResSwing -/
@[simp] theorem setResSwing_dsel (v : BitVec 3) : (s.setResSwing v).dsel = s.dsel := rfl
@[simp] theorem setResSwing_matcher (v : BitVec 3) : (s.setResSwing v).matcher = s.matcher := rfl
@[simp] theorem setResSwing_cmd (v : BitVec 3) : (s.setResSwing v).cmd = s.cmd := rfl
@[simp] theorem setResSwing_buf (v : BitVec 3) : (s.setResSwing v).buf = s.buf := rfl
@[simp] theorem setResSwing_sum (v : BitVec 3) : (s.setResSwing v).sum = s.sum := rfl
@[simp] theorem setResSwing_csok (v : BitVec 3) : (s.setResSwing v).csok = s.csok := rfl
@[simp] theorem setResSwing_res (v : BitVec 3) : (s.setResSwing v).res = { s.res with swing := v } := rfl
@[simp] theorem setResSwing_written (v : BitVec 3) : (s.setResSwing v).written = { s.written with swing := true } := rfl
@[simp] theorem setResSwing_err (v : BitVec 3) : (s.setResSwing v).err = s.err := rfl
@[simp] theorem setResSwing_txq (v : BitVec 3) : (s.setResSwing v).txq = s.txq := rfl
@[simp] theorem setResSwing_rxq (v : BitVec 3) : (s.setResSwing v).rxq = s.rxq := rfl
@[simp] theorem setResSwing_pos (v : BitVec 3) : (s.setResSwing v).pos = s.pos := rfl
@[simp] theorem setResSwing_fsm (v : BitVec 3) : (s.setResSwing v).fsm = s.fsm := rfl
@[simp] theorem setResSwing_pending (v : BitVec 3) : (s.setResSwing v).pending = s.pending := rfl

/-! ### setResTemp -/
@[simp] theorem setResTemp_dsel (v : Byte) : (s.setResTemp v).dsel = s.dsel := rfl
@[simp] theorem setResTemp_matcher (v : Byte) : (s.setResTemp v).matcher = s.matcher := rfl
@[simp] theorem setResTemp_cmd (v : Byte) : (s.setResTemp v).cmd = s.cmd := rfl
@[simp] theorem setResTemp_buf (v : Byte) : (s.setResTemp v).buf = s.buf := rfl
@[simp] theorem setResTemp_sum (v : Byte) : (s.setResTemp v).sum = s.sum := rfl
@[simp] theorem setResTemp_csok (v : Byte) : (s.setResTemp v).csok = s.csok := rfl
@[simp] theorem setResTemp_res (v : Byte) : (s.setResTemp v).res = { s.res with temp := v } := rfl
@[simp] theorem setResTemp_written (v : Byte) : (s.setResTemp v).written = { s.written with temp := true } := rfl
@[simp] theorem setResTemp_err (v : Byte) : (s.setResTemp v).err = s.err := rfl
@[simp] theorem setResTemp_txq (v : Byte) : (s.setResTemp v).txq = s.txq := rfl
@[simp] theorem setResTemp_rxq (v : Byte) : (s.setResTemp v).rxq = s.rxq := rfl
@[simp] theorem setResTemp_pos (v : Byte) : (s.setResTemp v).pos = s.pos := rfl
@[simp] theorem setResTemp_fsm (v : Byte) : (s.setResTemp v).fsm = s.fsm := rfl
@[simp] theorem setResTemp_pending (v : Byte) : (s.setResTemp v).pending = s.pending := rfl

/-! ### setResCsum -/
@[simp] theorem setResCsum_dsel (v : Byte) : (s.setResCsum v).dsel = s.dsel := rfl
@[simp] theorem setResCsum_matcher (v : Byte) : (s.setResCsum v).matcher = s.matcher := rfl
@[simp] theorem setResCsum_cmd (v : Byte) : (s.setResCsum v).cmd = s.cmd := rfl
@[simp] theorem setResCsum_buf (v : Byte) : (s.setResCsum v).buf = s.buf := rfl
@[simp] theorem setResCsum_sum (v : Byte) : (s.setResCsum v).sum = s.sum := rfl
@[simp] theorem setResCsum_csok (v : Byte) : (s.setResCsum v).csok = s.csok := rfl
@[simp] theorem setResCsum_res (v : Byte) : (s.setResCsum v).res = { s.res with csum := v } := rfl
@[simp] theorem setResCsum_written (v : Byte) : (s.setResCsum v).written = { s.written with csum := true } := rfl
@[simp] theorem setResCsum_err (v : Byte) : (s.setResCsum v).err = s.err := rfl
@[simp] theorem setResCsum_txq (v : Byte) : (s.setResCsum v).txq = s.txq := rfl
@[simp] theorem setResCsum_rxq (v : Byte) : (s.setResCsum v).rxq = s.rxq := rfl
@[simp] theorem setResCsum_pos (v : Byte) : (s.setResCsum v).pos = s.pos := rfl
@[simp] theorem setResCsum_fsm (v : Byte) : (s.setResCsum v).fsm = s.fsm := rfl
@[simp] theorem setResCsum_pending (v : Byte) : (s.setResCsum v).pending = s.pending := rfl

/-! ### setResCommand -/
@[simp] theorem setResCommand_dsel (c : Command) : (s.setResCommand c).dsel = s.dsel := rfl
@[simp] theorem setResCommand_matcher (c : Command) : (s.setResCommand c).matcher = s.matcher := rfl
@[simp] theorem setResCommand_cmd (c : Command) : (s.setResCommand c).cmd = s.cmd := rfl
@[simp] theorem setResCommand_buf (c : Command) : (s.setResCommand c).buf = s.buf := rfl
@[simp] theorem setResCommand_sum (c : Command) : (s.setResCommand c).sum = s.sum := rfl
@[simp] theorem setResCommand_csok (c : Command) : (s.setResCommand c).csok = s.csok := rfl
@[simp] theorem setResCommand_res (c : Command) : (s.setResCommand c).res = { s.res with power := c.power, mode := c.mode, fan := c.fan, swing := c.swing, temp := c.temp } := rfl
@[simp] theorem setResCommand_written (c : Command) : (s.setResCommand c).written = { s.written with power := true, mode := true, fan := true, swing := true, temp := true } := rfl
@[simp] theorem setResCommand_err (c : Command) : (s.setResCommand c).err = s.err := rfl
@[simp] theorem setResCommand_txq (c : Command) : (s.setResCommand c).txq = s.txq := rfl
@[simp] theorem setResCommand_rxq (c : Command) : (s.setResCommand c).rxq = s.rxq := rfl
@[simp] theorem setResCommand_pos (c : Command) : (s.setResCommand c).pos = s.pos := rfl
@[simp] theorem setResCommand_fsm (c : Command) : (s.setResCommand c).fsm = s.fsm := rfl
@[simp] theorem setResCommand_pending (c : Command) : (s.setResCommand c).pending = s.pending := rfl

end Sys2Proof.Machine.State
end

