-- ==== Sys2Proof/Laws/Memory.lean ====
section
/-! SUPPORT. The buffer as memory: a read after a write, and that every operation keeps the canonical form. -/

namespace Sys2Proof.Laws

open Sys2Proof.Machine

@[simp] theorem read_nil (a : Nat) : Memory.read [] a = none := rfl

/-- A read after a write to the same byte gives the value written. -/
@[simp] theorem read_write_same (m : Memory) (a : Nat) (v : Byte) : Memory.read (Memory.write m a v) a = some v := by
  induction m with
  | nil => simp [Memory.write, Memory.read]
  | cons c m ih =>
    obtain ⟨k, w⟩ := c
    unfold Memory.write
    split
    · simp [Memory.read]
    · split
      · simp [Memory.read]
      · rename_i h1 h2
        simp [Memory.read, Ne.symm h2, ih]

/-- A write leaves every other byte alone. -/
theorem read_write_other (m : Memory) {a b : Nat} (v : Byte) (h : b ≠ a) :
    Memory.read (Memory.write m a v) b = Memory.read m b := by
  induction m with
  | nil => simp [Memory.write, Memory.read, Ne.symm h, Memory.unlisted]
  | cons c m ih =>
    obtain ⟨k, w⟩ := c
    unfold Memory.write
    split
    · simp [Memory.read, Ne.symm h]
    · split
      · rename_i h1 h2
        subst h2
        simp [Memory.read, Ne.symm h]
      · simp [Memory.read, ih]

/-- The read of any byte after a write. -/
theorem read_write (m : Memory) (a b : Nat) (v : Byte) :
    Memory.read (Memory.write m a v) b = if b = a then some v else Memory.read m b := by
  split
  · next h => rw [h, read_write_same]
  · next h => exact read_write_other m v h

/-- A second write to the same byte replaces the first. -/
theorem write_write (m : Memory) (a : Nat) (v w : Byte) :
    Memory.write (Memory.write m a v) a w = Memory.write m a w := by
  induction m with
  | nil => simp [Memory.write]
  | cons c m ih =>
    obtain ⟨k, x⟩ := c
    simp only [Memory.write]
    split
    · simp [Memory.write]
    · split
      · simp [Memory.write]
      · simp [Memory.write, *]

/-- A write leaves no written byte without a value. -/
theorem isSome_read_write {m : Memory} {a i : Nat} {v : Byte} (h : (Memory.read m i).isSome) :
    (Memory.read (Memory.write m a v) i).isSome := by
  rw [read_write]
  split <;> simp [h]

/-- The canonical form, as a proposition. -/
theorem wf_iff (m : Memory) : m.wf = true ↔ m.Pairwise (fun x y => x.1 < y.1) ∧ ∀ c ∈ m, c.1 < 13 := by
  simp [Memory.wf, List.all_eq_true]

/-- Where the addresses after a write come from. -/
theorem mem_write {m : Memory} {a : Nat} {v : Byte} {c : Host.Cell} (h : c ∈ Memory.write m a v) :
    c.1 = a ∨ c ∈ m := by
  induction m with
  | nil => simp [Memory.write] at h; simp [h]
  | cons d m ih =>
    obtain ⟨k, w⟩ := d
    unfold Memory.write at h
    split at h
    · rcases List.mem_cons.mp h with h | h
      · simp [h]
      · exact .inr h
    · split at h
      · rcases List.mem_cons.mp h with h | h
        · simp [h]
        · exact .inr (List.mem_cons_of_mem _ h)
      · rcases List.mem_cons.mp h with h | h
        · exact .inr (h ▸ List.mem_cons_self ..)
        · exact (ih h).imp_right (List.mem_cons_of_mem _)

/-- A write keeps the addresses strictly rising. -/
theorem write_pairwise {m : Memory} (a : Nat) (v : Byte) (h : m.Pairwise (fun x y => x.1 < y.1)) :
    (Memory.write m a v).Pairwise (fun x y => x.1 < y.1) := by
  induction m with
  | nil => simp [Memory.write]
  | cons d m ih =>
    obtain ⟨k, w⟩ := d
    have hk : ∀ c ∈ m, k < c.1 := fun c hc => List.rel_of_pairwise_cons h hc
    have hm := List.Pairwise.of_cons h
    unfold Memory.write
    split
    · next h1 =>
      refine List.pairwise_cons.mpr ⟨fun c hc => ?_, h⟩
      rcases List.mem_cons.mp hc with rfl | hc
      · exact h1
      · exact Nat.lt_trans h1 (hk c hc)
    · split
      · next h1 h2 => exact List.pairwise_cons.mpr ⟨fun c hc => h2 ▸ hk c hc, hm⟩
      · next h1 h2 =>
        refine List.pairwise_cons.mpr ⟨fun c hc => ?_, ih hm⟩
        rcases mem_write hc with h' | h'
        · show k < c.1
          omega
        · exact hk c h'

/-- A write inside the buffer keeps the canonical form. -/
theorem wf_write {m : Memory} {a : Nat} (v : Byte) (ha : a < 13) (h : m.wf = true) : (Memory.write m a v).wf = true := by
  rw [wf_iff] at h ⊢
  refine ⟨write_pairwise a v h.1, fun c hc => ?_⟩
  rcases mem_write hc with h' | h'
  · omega
  · exact h.2 c h'

/-- The empty memory, the one of reset, is in canonical form. -/
theorem wf_nil : Memory.wf [] = true := rfl

/-- A whole buffer is in canonical form. -/
theorem wf_ofPayload (p : Payload) : (Memory.ofPayload p).wf = true := by
  rw [wf_iff]
  refine ⟨?_, fun c hc => ?_⟩
  · rw [Memory.ofPayload, List.pairwise_map]
    exact List.pairwise_lt_finRange 13
  · obtain ⟨i, -, rfl⟩ := List.mem_map.mp hc
    exact i.isLt

/-- A byte of a whole buffer. -/
@[simp] theorem read_ofPayload (p : Payload) (i : Nat) (h : i < 13) : (Memory.ofPayload p).read i = some p[i] := by
  simp only [Memory.ofPayload, List.finRange, List.ofFn, Fin.foldr, Fin.foldr.loop, List.map, Memory.read]
  interval_cases i <;> simp

/-- An index that the canonical form does not admit reads as no value. -/
theorem read_of_wf {m : Memory} (h : m.wf = true) {i : Nat} (hi : 13 ≤ i) : Memory.read m i = none := by
  have h2 := ((wf_iff m).mp h).2
  clear h
  induction m with
  | nil => rfl
  | cons c m ih =>
    obtain ⟨k, v⟩ := c
    have hk : k < 13 := h2 (k, v) (List.mem_cons_self ..)
    rw [Memory.read, if_neg (by omega)]
    exact ih fun c hc => h2 c (List.mem_cons_of_mem _ hc)

/-- A whole buffer lists no index above 12. -/
theorem read_ofPayload_above (p : Payload) (i : Nat) (h : 13 ≤ i) : (Memory.ofPayload p).read i = none :=
  read_of_wf (wf_ofPayload p) h

/-- A byte listed below every address of a rising memory is not listed in it. -/
theorem read_below {m : Memory} {a : Nat} (h : ∀ c ∈ m, a < c.1) : Memory.read m a = none := by
  induction m with
  | nil => rfl
  | cons c m ih =>
    obtain ⟨k, v⟩ := c
    have hk : a < k := h (k, v) (List.mem_cons_self ..)
    rw [Memory.read, if_neg (by omega)]
    exact ih fun c hc => h c (List.mem_cons_of_mem _ hc)

/-- Two memories in canonical form that read alike are the same data. -/
theorem eq_of_read_eq {m n : Memory} (hm : m.wf = true) (hn : n.wf = true)
    (h : ∀ a, Memory.read m a = Memory.read n a) : m = n := by
  replace hm := ((wf_iff m).mp hm).1
  replace hn := ((wf_iff n).mp hn).1
  induction m generalizing n with
  | nil =>
    cases n with
    | nil => rfl
    | cons c n => simpa [Memory.read, Memory.unlisted] using h c.1
  | cons c m ih =>
    cases n with
    | nil => simpa [Memory.read, Memory.unlisted] using h c.1
    | cons d n =>
      obtain ⟨k, v⟩ := c
      obtain ⟨l, w⟩ := d
      have bm : ∀ c ∈ m, k < c.1 := fun c hc => List.rel_of_pairwise_cons hm hc
      have bn : ∀ c ∈ n, l < c.1 := fun c hc => List.rel_of_pairwise_cons hn hc
      have hkl : k = l := by
        have h1 := h k
        have h2 := h l
        simp only [Memory.read, if_true] at h1 h2
        by_contra hne
        rw [if_neg (Ne.symm hne)] at h1
        rw [if_neg hne] at h2
        rcases Nat.lt_or_gt_of_ne hne with hlt | hlt
        · rw [read_below fun c hc => Nat.lt_trans hlt (bn c hc)] at h1
          simp at h1
        · rw [read_below fun c hc => Nat.lt_trans hlt (bm c hc)] at h2
          simp at h2
      subst hkl
      have hv : v = w := by simpa [Memory.read] using h k
      subst hv
      refine congrArg _ (ih (fun a => ?_) (List.Pairwise.of_cons hm) (List.Pairwise.of_cons hn))
      have ha := h a
      by_cases hka : k = a
      · subst hka
        rw [read_below bm, read_below bn]
      · simpa [Memory.read, hka] using ha

end Sys2Proof.Laws
end

