-- ==== Sys2Proof/Laws/Ops.lean ====
section
/-! SUPPORT. What each shared operation can do, said once. -/

namespace Sys2Proof.Laws

open Sys2Proof.Machine

variable {s t : State}

/-! ## Sequencing -/

@[simp] theorem andThen_next (s : State) (k : State → Outcome) : andThen (.next s) k = k s := rfl
@[simp] theorem andThen_refused (r : Refusal) (k : State → Outcome) : andThen (.refused r) k = .refused r := rfl

/-- A sequence that goes on went on at its first part. -/
theorem andThen_eq_next {o : Outcome} {k : State → Outcome} (h : andThen o k = .next t) : ∃ u, o = .next u ∧ k u = .next t := by
  cases o with
  | next u => exact ⟨u, rfl, h⟩
  | fault r => exact nomatch r
  | refused r => cases h

/-! ## Operand availability -/

/-- The bytes of `idx` have all been written: the operation goes on with them. -/
theorem withBytes_of_available {idx : List Nat} {k : (Nat → Byte) → Outcome}
    (h : ∀ i ∈ idx, (s.buf.read i).isSome) : withBytes idx s k = k (fun i => (s.buf.read i).getD 0) := by
  have : idx.find? (fun i => (s.buf.read i).isNone) = none := by
    rw [List.find?_eq_none]
    intro i hi
    simpa [Option.isSome_iff_ne_none] using h i hi
  simp [withBytes, this]

/-- An operation that reads the buffer and goes on found all its bytes written. -/
theorem withBytes_eq_next {idx : List Nat} {k : (Nat → Byte) → Outcome} (h : withBytes idx s k = .next t) :
    (∀ i ∈ idx, (s.buf.read i).isSome) ∧ k (fun i => (s.buf.read i).getD 0) = .next t := by
  unfold withBytes at h
  split at h
  · cases h
  · next hn =>
    refine ⟨fun i hi => ?_, h⟩
    simpa [Option.isSome_iff_ne_none] using List.find?_eq_none.mp hn i hi

/-- An operation that reads an unwritten byte is refused, with the first such byte named. -/
theorem withBytes_of_missing {idx : List Nat} {k : (Nat → Byte) → Outcome} {i : Nat} (hi : i ∈ idx)
    (h : s.buf.read i = none) : ∃ j ∈ idx, s.buf.read j = none ∧ withBytes idx s k = .refused (.bufByteHasNoValue j) := by
  unfold withBytes
  cases hf : idx.find? (fun i => (s.buf.read i).isNone) with
  | none => simpa [h] using List.find?_eq_none.mp hf i hi
  | some j => exact ⟨j, List.mem_of_find?_eq_some hf, by simpa using List.find?_some hf, rfl⟩

@[simp] theorem withCmd_of_written {k : Command → Outcome} (h : s.written.cmd = true) : withCmd s k = k s.cmd := by
  simp [withCmd, h]

@[simp] theorem withCmd_of_unwritten {k : Command → Outcome} (h : s.written.cmd = false) :
    withCmd s k = .refused .cmdHasNoValue := by
  simp [withCmd, h]

/-- An operation that reads `CMD` and goes on found it written. -/
theorem withCmd_eq_next {k : Command → Outcome} (h : withCmd s k = .next t) : s.written.cmd = true ∧ k s.cmd = .next t := by
  unfold withCmd at h
  split at h
  · exact ⟨‹_›, h⟩
  · cases h

/-! ## Field writes -/

/-- A field write on a written byte. -/
theorem modifyByte_of_read {i : Nat} {f : Byte → Byte} {x : Byte} (h : s.buf.read i = some x) :
    modifyByte i f s = .next (s.setBuf (s.buf.write i (f x))) := by
  rw [modifyByte, withBytes_of_available (by simp [h])]
  simp [h]

/-- All that a field write can do. -/
theorem modifyByte_eq_next {i : Nat} {f : Byte → Byte} (h : modifyByte i f s = .next t) :
    ∃ x, s.buf.read i = some x ∧ t = s.setBuf (s.buf.write i (f x)) := by
  obtain ⟨hs, ht⟩ := withBytes_eq_next h
  obtain ⟨x, hx⟩ := Option.isSome_iff_exists.mp (hs i (List.mem_singleton_self i))
  refine ⟨x, hx, ?_⟩
  injection ht with ht
  simpa [hx] using ht.symm

/-! ## The buffer after construction -/

@[simp] theorem payloadOf_getElem (b : Byte) (i : Nat) (h : i < 13) : (payloadOf b)[i] = b := by
  simp [payloadOf]

/-- Every byte of a constructed buffer holds the fill (40_payload_codec.md R91). -/
theorem read_fillBuffer (s : State) (i : Nat) (h : i < 13) : (fillBuffer s).buf.read i = some (fillByte s.dsel) := by
  simp [fillBuffer, h]

end Sys2Proof.Laws
end

