-- ==== Sys2Proof/Laws/Decoder.lean ====
section
/-! SUPPORT. Demodulation step by step: what one step can do, what a run of bit steps leaves, and the registers that a
demodulation writes and leaves alone. -/

namespace Sys2Proof.Laws

open Sys2Proof.Machine

variable {d : Dialect} {m : Matcher} {rxq : List Pulse}

/-! ## Matching -/

/-- P-REFL: a nominal pair matches itself (00_scope.md R5). -/
@[simp] theorem pulseMatches_refl (m : Matcher) (p : Pulse) : pulseMatches m p p = true := by simp [pulseMatches]

/-- The exact matcher accepts equal pairs only. -/
theorem pulseMatches_exact (o n : Pulse) : pulseMatches Matcher.exact o n = (o == n) := by
  simp [pulseMatches, Matcher.exact]

/-! ## Positions -/

/-- The state in which bit `n` is read; after bit 103 it is `Validating` (43_timing_decoder.md R155, R156). -/
def fsmAtBit (n : Nat) : Fsm :=
  if h : n < 104 then .readingBits ⟨n / 8, by omega⟩ ⟨n % 8, by omega⟩ else .validating

theorem afterBit_eq (n : Nat) (h : n < 104) :
    afterBit ⟨n / 8, by omega⟩ ⟨n % 8, by omega⟩ = fsmAtBit (n + 1) := by
  unfold afterBit fsmAtBit
  by_cases hj : n % 8 < 7
  · rw [dif_pos hj, dif_pos (show n + 1 < 104 by omega)]
    simp only [Fsm.readingBits.injEq, Fin.mk.injEq]
    omega
  · rw [dif_neg hj]
    by_cases hi : n / 8 < 12
    · rw [dif_pos hi, dif_pos (show n + 1 < 104 by omega)]
      simp only [Fsm.readingBits.injEq, Fin.ext_iff, Fin.val_zero]
      omega
    · rw [dif_neg hi, dif_neg (by omega)]

/-! ## Bits of a payload -/

/-- Bit `n` of a payload in wire order (20_memory.md R42). -/
def payloadBit (p : Payload) (n : Nat) (h : n < 104) : Bool := (p[n / 8]'(by omega)).getLsbD (n % 8)

/-- A bit write changes that bit of the payload and no other (43_timing_decoder.md R155). -/
theorem payloadBit_putBit (p : Payload) (n k : Nat) (hn : n < 104) (hk : k < 104) (v : Bool) :
    payloadBit (putBit p ⟨n / 8, by omega⟩ ⟨n % 8, by omega⟩ v) k hk = if k = n then v else payloadBit p k hk := by
  unfold payloadBit putBit
  simp only [Vector.getElem_set]
  by_cases hb : n / 8 = k / 8
  · simp only [Fin.getElem_fin, hb, if_true]
    rw [getLsbD_ins _ _ _ _ (by omega)]
    by_cases hkn : k = n
    · subst hkn
      simp
    · rw [if_neg (by omega), if_neg hkn]
  · rw [if_neg hb, if_neg (by rintro rfl; exact hb rfl)]

/-- Two payloads with the same 104 bits are the same. -/
theorem payload_eq_of_bits {p q : Payload} (h : ∀ n (hn : n < 104), payloadBit p n hn = payloadBit q n hn) : p = q := by
  ext1 i hi
  refine byte_eq_of_bits fun k hk => ?_
  have := h (8 * i + k) (by omega)
  simpa [payloadBit, show (8 * i + k) / 8 = i by omega, show (8 * i + k) % 8 = k by omega] using this

/-! ## Single steps (43_timing_decoder.md R152 to R156) -/

theorem decoderStep_header {x : Decoder} {p : Pulse} (hf : x.fsm = .awaitHeader) (hp : rxq[x.pos]? = some p)
    (hm : pulseMatches m p (headerPulse d) = true) :
    decoderStep d m rxq x = .goOn { x with pos := x.pos + 1, fsm := .readingBits 0 0 } := by
  simp [decoderStep, hf, hp, hm]

theorem decoderStep_noHeader {x : Decoder} (hf : x.fsm = .awaitHeader)
    (h : ∀ p, rxq[x.pos]? = some p → pulseMatches m p (headerPulse d) = false) :
    decoderStep d m rxq x = .reject .headerMismatch x := by
  unfold decoderStep
  rw [hf]
  cases hp : rxq[x.pos]? with
  | none => rfl
  | some p => simp [h p hp]

theorem decoderStep_bit {x : Decoder} {n : Nat} (hn : n < 104) (hf : x.fsm = fsmAtBit n) {p : Pulse} {sym : Bool}
    (hp : rxq[x.pos]? = some p) (hc : classifyPulse d m p = some sym) :
    decoderStep d m rxq x = .goOn
      { fsm := fsmAtBit (n + 1), pos := x.pos + 1,
        payload := putBit x.payload ⟨n / 8, by omega⟩ ⟨n % 8, by omega⟩ (symbolBit d sym) } := by
  rw [← afterBit_eq n hn]
  rw [fsmAtBit, dif_pos hn] at hf
  simp [decoderStep, hf, hp, hc]

theorem decoderStep_noBit {x : Decoder} {n : Nat} (hn : n < 104) (hf : x.fsm = fsmAtBit n)
    (h : rxq[x.pos]?.bind (classifyPulse d m) = none) :
    decoderStep d m rxq x = .reject .truncatedMessage x := by
  rw [fsmAtBit, dif_pos hn] at hf
  unfold decoderStep
  rw [hf]
  cases hp : rxq[x.pos]? with
  | none => rfl
  | some p =>
    rw [hp] at h
    simp only [Option.bind_some] at h
    simp [h]

/-! ## Runs of bit steps -/

/-- The registers after the header and `n` good bit pulses: `bits k` is the value of bit pulse `k`. -/
structure AfterBits (d : Dialect) (bits : Nat → Bool) (n : Nat) (x : Decoder) : Prop where
  fsm : x.fsm = fsmAtBit n
  pos : x.pos = n + 1
  payload : ∀ k (hk : k < 104), payloadBit x.payload k hk = if k < n then bits k else (fillByte d).getLsbD (k % 8)

/-- Bit pulses `0` to `n - 1` of a captured sequence are good and carry the values `bits`. -/
def GoodBits (d : Dialect) (m : Matcher) (rxq : List Pulse) (bits : Nat → Bool) (n : Nat) : Prop :=
  ∀ k < n, (rxq[k + 1]?.bind (classifyPulse d m)).map (symbolBit d) = some (bits k)

theorem afterBits_header : AfterBits d bits 0
    { fsm := .readingBits 0 0, pos := 1, payload := payloadOf (fillByte d) } where
  fsm := rfl
  pos := rfl
  payload k hk := by simp [payloadBit]

theorem afterBits_step {bits : Nat → Bool} {n : Nat} {x : Decoder} (hn : n < 104) (hx : AfterBits d bits n x)
    (hb : (rxq[n + 1]?.bind (classifyPulse d m)).map (symbolBit d) = some (bits n)) :
    ∃ y, decoderStep d m rxq x = .goOn y ∧ AfterBits d bits (n + 1) y := by
  obtain ⟨sym, hsym, hbit⟩ := Option.map_eq_some_iff.mp hb
  obtain ⟨p, hp, hc⟩ := Option.bind_eq_some_iff.mp hsym
  refine ⟨_, decoderStep_bit hn hx.fsm (by rw [hx.pos]; exact hp) hc, ?_⟩
  refine ⟨rfl, by simp [hx.pos], fun k hk => ?_⟩
  rw [payloadBit_putBit _ _ _ hn, hx.payload, hbit]
  by_cases h1 : k = n
  · simp [h1]
  · by_cases h2 : k < n
    · simp [h1, h2, Nat.lt_succ_of_lt h2]
    · simp [h1, h2, show ¬ k < n + 1 by omega]

/-- A run of good bit pulses from position `n`. -/
theorem runDecoder_good {bits : Nat → Bool} (j : Nat) {n : Nat} {x : Decoder} (hn : n + j ≤ 104)
    (hx : AfterBits d bits n x) (hg : ∀ k, n ≤ k → k < n + j →
      (rxq[k + 1]?.bind (classifyPulse d m)).map (symbolBit d) = some (bits k)) (r : Nat) :
    ∃ y, runDecoder d m rxq (j + r) x = runDecoder d m rxq r y ∧ AfterBits d bits (n + j) y := by
  induction j generalizing n x with
  | zero => exact ⟨x, by simp, hx⟩
  | succ j ih =>
    obtain ⟨y, hy, hy'⟩ := afterBits_step (m := m) (rxq := rxq) (by omega) hx (hg n (by omega) (by omega))
    obtain ⟨z, hz, hz'⟩ := ih (by omega) hy' (fun k h1 h2 => hg k (by omega) (by omega))
    refine ⟨z, ?_, by rw [show n + (j + 1) = n + 1 + j by omega]; exact hz'⟩
    rw [show j + 1 + r = (j + r) + 1 by omega, runDecoder, hy]
    exact hz

/-! ## The three ends of demodulation -/

/-- The first pulse is missing or no header. -/
theorem runDecoder_noHeader (h : ∀ p, rxq[0]? = some p → pulseMatches m p (headerPulse d) = false) :
    runDecoder d m rxq 105 (startDecoder d) = .reject .headerMismatch (startDecoder d) := by
  rw [runDecoder, decoderStep_noHeader rfl h]

/-- The header and `n` bit pulses are good, and the next is missing or bad. -/
theorem runDecoder_truncated {bits : Nat → Bool} {n : Nat} {p : Pulse} (hn : n < 104) (hp : rxq[0]? = some p)
    (hm : pulseMatches m p (headerPulse d) = true) (hg : GoodBits d m rxq bits n)
    (hbad : rxq[n + 1]?.bind (classifyPulse d m) = none) :
    ∃ x, runDecoder d m rxq 105 (startDecoder d) = .reject .truncatedMessage x ∧ AfterBits d bits n x := by
  obtain ⟨y, hy, hy'⟩ := runDecoder_good n (by omega) (afterBits_header (d := d) (bits := bits))
    (fun k _ hk => hg k (by omega)) (103 - n + 1)
  rw [Nat.zero_add] at hy'
  refine ⟨y, ?_, hy'⟩
  rw [show (105 : Nat) = 104 + 1 by rfl, runDecoder, decoderStep_header rfl hp hm]
  rw [show (104 : Nat) = n + (103 - n + 1) by omega]
  refine hy.trans ?_
  rw [runDecoder, decoderStep_noBit hn hy'.fsm (by rw [hy'.pos]; exact hbad)]

/-- The header and all 104 bit pulses are good. -/
theorem runDecoder_complete {bits : Nat → Bool} {p : Pulse} (hp : rxq[0]? = some p)
    (hm : pulseMatches m p (headerPulse d) = true) (hg : GoodBits d m rxq bits 104) :
    ∃ x, runDecoder d m rxq 105 (startDecoder d) = .goOn x ∧ AfterBits d bits 104 x := by
  obtain ⟨y, hy, hy'⟩ := runDecoder_good 104 (by omega) (afterBits_header (d := d) (bits := bits))
    (fun k _ hk => hg k (by omega)) 0
  rw [Nat.zero_add] at hy'
  refine ⟨y, ?_, hy'⟩
  rw [show (105 : Nat) = 104 + 1 by rfl, runDecoder, decoderStep_header rfl hp hm]
  exact hy

/-- Every captured sequence falls under one of the three ends. -/
theorem capture_cases (d : Dialect) (m : Matcher) (rxq : List Pulse) :
    (∀ p, rxq[0]? = some p → pulseMatches m p (headerPulse d) = false) ∨
    (∃ p bits, rxq[0]? = some p ∧ pulseMatches m p (headerPulse d) = true ∧
      ((∃ n < 104, GoodBits d m rxq bits n ∧ rxq[n + 1]?.bind (classifyPulse d m) = none) ∨
        GoodBits d m rxq bits 104)) := by
  by_cases h : ∀ p, rxq[0]? = some p → pulseMatches m p (headerPulse d) = false
  · exact .inl h
  · right
    push Not at h
    obtain ⟨p, hp, hm⟩ := h
    refine ⟨p, fun k => ((rxq[k + 1]?.bind (classifyPulse d m)).map (symbolBit d)).getD false, hp, by simpa using hm, ?_⟩
    by_cases hb : ∃ n < 104, rxq[n + 1]?.bind (classifyPulse d m) = none
    · left
      classical
      obtain ⟨hn, hbad⟩ := Nat.find_spec hb
      refine ⟨Nat.find hb, hn, fun k hk => ?_, hbad⟩
      have hk' := Nat.find_min hb hk
      cases hc : rxq[k + 1]?.bind (classifyPulse d m) with
      | none => exact absurd ⟨by omega, hc⟩ hk'
      | some v => simp [hc]
    · right
      push Not at hb
      intro k hk
      cases hc : rxq[k + 1]?.bind (classifyPulse d m) with
      | none => exact absurd hc (hb k hk)
      | some v => simp [hc]

/-! ## What demodulation leaves alone -/

@[simp] theorem demodulate_frame (s : State) :
    (demodulate s).dsel = s.dsel ∧ (demodulate s).matcher = s.matcher ∧ (demodulate s).cmd = s.cmd ∧
    (demodulate s).sum = s.sum ∧ (demodulate s).csok = s.csok ∧ (demodulate s).res = s.res ∧
    (demodulate s).written = s.written ∧ (demodulate s).txq = s.txq ∧ (demodulate s).rxq = s.rxq ∧
    (demodulate s).pending = s.pending := by
  unfold demodulate
  cases runDecoder s.dsel s.matcher s.rxq 105 (startDecoder s.dsel) <;>
    simp [installDecoder, beginAttempt, raiseReject]

/-- Demodulation leaves a whole buffer. -/
theorem demodulate_buf (s : State) : ∃ p, (demodulate s).buf = Memory.ofPayload p := by
  unfold demodulate
  cases runDecoder s.dsel s.matcher s.rxq 105 (startDecoder s.dsel) with
  | goOn x => exact ⟨x.payload, by simp [installDecoder]⟩
  | reject r x => exact ⟨x.payload, by simp [installDecoder, raiseReject]⟩

end Sys2Proof.Laws
end

