-- ==== Sys2Proof/Laws/Flags.lean ====
section
/-! SUPPORT. The checksum sum, what each shared reading of a buffer depends on, and the three ends of the cascade. -/

namespace Sys2Proof.Laws

open Sys2Proof.Machine

variable {d : Dialect} {b b' : Nat → Byte}

/-! ## The sum (41_checksum.md R130) -/

/-- The wrapping sum is the exact sum modulo 256. -/
theorem sumBytes_toNat (l : List Byte) (seed : Byte) :
    (sumBytes seed l).toNat = (seed.toNat + (l.map BitVec.toNat).sum) % 256 := by
  induction l generalizing seed with
  | nil => simp [sumBytes]; omega
  | cons x l ih =>
    have := ih (seed + x)
    simp only [sumBytes, List.foldl_cons] at this ⊢
    rw [this]
    simp [BitVec.toNat_add]
    omega

theorem sumBytes_append (seed : Byte) (l r : List Byte) : sumBytes seed (l ++ r) = sumBytes (sumBytes seed l) r := by
  simp [sumBytes]

/-- A summand can be taken out of the seed. -/
theorem sumBytes_add (seed x : Byte) (l : List Byte) : sumBytes (seed + x) l = sumBytes seed l + x := by
  induction l generalizing seed with
  | nil => simp [sumBytes]
  | cons y l ih =>
    simp only [sumBytes, List.foldl_cons] at ih ⊢
    rw [BitVec.add_assoc, BitVec.add_comm x y, ← BitVec.add_assoc, ih]

/-! ## What each reading of a buffer depends on -/

/-- The checksum depends on bytes 0 to 11 alone. -/
theorem checksumOf_congr (h : ∀ a < 12, b a = b' a) : checksumOf d b = checksumOf d b' := by
  unfold checksumOf
  congr 1
  apply List.map_congr_left
  intro a ha
  exact h a (by simpa [summedBytes] using ha)

/-- The four field checks depend on bytes 0, 1, 4 and 6 alone. -/
theorem firstFieldFailure_congr (h : ∀ a ∈ [0, 1, 4, 6], b a = b' a) :
    firstFieldFailure d b = firstFieldFailure d b' := by
  simp only [firstFieldFailure, identByte, modeByte, swingTempByte, fanByte, h 0 (by simp), h 1 (by simp), h 4 (by simp),
    h 6 (by simp)]
  rfl

/-- The Command depends on bytes 1, 4, 6 and 9 alone. -/
theorem commandOf_congr (h : ∀ a ∈ [1, 4, 6, 9], b a = b' a) : commandOf d b = commandOf d b' := by
  simp only [commandOf, modeByte, swingTempByte, fanByte, powerByte, h 9 (by simp), h 1 (by simp), h 4 (by simp),
    h 6 (by simp)]

/-- A failed check has a reason. -/
theorem firstFieldFailure_ne_none {r : Reason} (h : firstFieldFailure d b = some r) : r ≠ .none := by
  rintro rfl
  unfold firstFieldFailure at h
  split at h <;> [cases h; split at h] <;> [cases h; split at h] <;> [cases h; split at h] <;> cases h

/-- A decoded temperature is in 8..39 (10_state.md R19). -/
theorem tempOf_range (d : Dialect) (x : Byte) : 8 ≤ (tempOf d x).toNat ∧ (tempOf d x).toNat ≤ 39 := by
  cases d <;> revert x <;> decide

/-! ## The cascade (43_timing_decoder.md R161) -/

/-- The three ends of the cascade: a failed field check, a failed checksum, acceptance. -/
theorem runCascade_cases (b : Nat → Byte) (s : State) :
    (∃ r, firstFieldFailure s.dsel b = some r ∧ r ≠ .none ∧ runCascade b s = raiseReject r s) ∨
    (firstFieldFailure s.dsel b = none ∧ checksumOf s.dsel b ≠ b 12 ∧
      runCascade b s = raiseReject .checksumMismatch ((s.setSum (checksumOf s.dsel b)).setCsok false)) ∨
    (firstFieldFailure s.dsel b = none ∧ checksumOf s.dsel b = b 12 ∧
      runCascade b s = ((((s.setSum (checksumOf s.dsel b)).setCsok true).setResCommand (commandOf s.dsel b)).setErr
        .none).setFsm .accepted) := by
  unfold runCascade
  simp only [State.setFsm_dsel]
  cases h : firstFieldFailure s.dsel b with
  | some r => exact .inl ⟨r, rfl, firstFieldFailure_ne_none h, rfl⟩
  | none =>
    right
    by_cases hc : checksumOf s.dsel b = b 12
    · right
      refine ⟨rfl, hc, ?_⟩
      have : (checksumOf s.dsel b == b csumByte) = true := by simpa [csumByte] using hc
      simp only [compareChecksum, State.setFsm_dsel, this, State.setCsok_csok, State.setCsok_dsel, State.setSum_dsel]
      rfl
    · left
      refine ⟨rfl, hc, ?_⟩
      have : (checksumOf s.dsel b == b csumByte) = false := by simpa [csumByte] using hc
      simp only [compareChecksum, State.setFsm_dsel, this, State.setCsok_csok]
      rfl

/-- The cascade keeps the buffer. -/
@[simp] theorem runCascade_buf (b : Nat → Byte) (s : State) : (runCascade b s).buf = s.buf := by
  rcases runCascade_cases b s with ⟨r, _, _, e⟩ | ⟨_, _, e⟩ | ⟨_, _, e⟩ <;> rw [e] <;> simp [raiseReject]

end Sys2Proof.Laws
end

