-- ==== Sys2Proof/Laws/Exec.lean ====
section
/-! SUPPORT. What an operation that goes on can have done: one equation per operation, for proofs about every operation
to cite. -/

namespace Sys2Proof.Laws

open Sys2Proof.Machine

variable {s t : State}

/-! ## The frame of the encoder (42_timing_encoder.md R140) -/

theorem encodeFrame_zero (d : Dialect) (b : Nat → Byte) : (encodeFrame d b)[0]? = some (headerPulse d) := by
  simp [encodeFrame]

theorem encodeFrame_succ (d : Dialect) (b : Nat → Byte) {n : Nat} (hn : n < 104) :
    (encodeFrame d b)[n + 1]? = some (symbolPulse d (wireBit b n)) := by
  simp [encodeFrame, List.getElem?_append, hn]

/-- The frame depends on the 13 bytes alone. -/
theorem encodeFrame_congr {d : Dialect} {b b' : Nat → Byte} (h : ∀ a < 13, b a = b' a) :
    encodeFrame d b = encodeFrame d b' := by
  unfold encodeFrame
  congr 2
  apply List.map_congr_left
  intro n hn
  simp only [List.mem_range] at hn
  simp [wireBit, h (n / 8) (by omega)]

/-! ## The packed buffer (40_payload_codec.md R98) -/

/-- The buffer of `PACK` before byte 12 is written. -/
def packBuf (s : State) : Memory :=
  let fill := fillByte s.dsel
  let m := (Memory.ofPayload (payloadOf fill)).write 0 (cfg s.dsel).ident
  let m := (m.write 9 (putPower s.dsel s.cmd.power fill)).write 6 (putMode s.cmd.mode fill)
  let m := (m.write 4 (putFan s.cmd.fan fill)).write 1 (putSwing s.cmd.swing fill)
  m.write 1 (putTemp s.dsel s.cmd.temp (putSwing s.cmd.swing fill))

theorem packBuf_wf (s : State) : (packBuf s).wf = true := by
  unfold packBuf
  repeat (apply wf_write _ (by decide))
  exact wf_ofPayload _

/-- All that `PACK` does. -/
theorem exec_pack (hc : s.written.cmd = true) : exec .pack s = .next (s.setBuf ((packBuf s).write 12 0)) := by
  simp only [exec, execPack, withCmd_of_written hc, andThen_next]
  rw [modifyByte_of_read (x := fillByte s.dsel) (by simp [writeByte, read_write, identByte, powerByte, fillBuffer])]
  simp only [andThen_next]
  rw [modifyByte_of_read (x := fillByte s.dsel)
    (by simp [writeByte, read_write, identByte, powerByte, fillBuffer, modeByte])]
  simp only [andThen_next]
  rw [modifyByte_of_read (x := fillByte s.dsel)
    (by simp [writeByte, read_write, identByte, powerByte, fillBuffer, modeByte, fanByte])]
  simp only [andThen_next]
  rw [modifyByte_of_read (x := fillByte s.dsel)
    (by simp [writeByte, read_write, identByte, powerByte, fillBuffer, modeByte, fanByte, swingTempByte])]
  simp only [andThen_next]
  rw [modifyByte_of_read (x := putSwing s.cmd.swing (fillByte s.dsel))
    (by simp [writeByte, identByte, powerByte, fillBuffer, modeByte, fanByte, swingTempByte])]
  simp only [andThen_next]
  rfl

/-- A `PACK` that goes on found `CMD` written. -/
theorem exec_pack_inv (h : exec .pack s = .next t) : s.written.cmd = true ∧ t = s.setBuf ((packBuf s).write 12 0) := by
  by_cases hc : s.written.cmd = true
  · rw [exec_pack hc] at h
    injection h with h
    exact ⟨hc, h.symm⟩
  · simp only [exec, execPack] at h
    rw [withCmd_of_unwritten (by simpa using hc)] at h
    cases h

/-! ## The decoder operations (43_timing_decoder.md R151, R161, R169) -/

/-- The three ends of a demodulation and the state each leaves. -/
theorem demodulate_cases (s : State) :
    ((∀ p, s.rxq[0]? = some p → pulseMatches s.matcher p (headerPulse s.dsel) = false) ∧
      demodulate s = raiseReject .headerMismatch
        ((s.setBuf (Memory.ofPayload (payloadOf (fillByte s.dsel)))).setPos 0)) ∨
    (∃ p bits n x, n < 104 ∧ s.rxq[0]? = some p ∧ pulseMatches s.matcher p (headerPulse s.dsel) = true ∧
      AfterBits s.dsel bits n x ∧ GoodBits s.dsel s.matcher s.rxq bits n ∧
      s.rxq[n + 1]?.bind (classifyPulse s.dsel s.matcher) = none ∧
      demodulate s = raiseReject .truncatedMessage ((s.setBuf (Memory.ofPayload x.payload)).setPos (n + 1))) ∨
    (∃ p bits x, s.rxq[0]? = some p ∧ pulseMatches s.matcher p (headerPulse s.dsel) = true ∧
      AfterBits s.dsel bits 104 x ∧ GoodBits s.dsel s.matcher s.rxq bits 104 ∧
      demodulate s =
        (((s.setBuf (Memory.ofPayload x.payload)).setPos 105).setErr .none).setFsm .validating) := by
  rcases capture_cases s.dsel s.matcher s.rxq with h | ⟨p, bits, hp, hm, ⟨n, hn, hg, hb⟩ | hg⟩
  · refine .inl ⟨h, ?_⟩
    rw [demodulate, runDecoder_noHeader h]
    rfl
  · obtain ⟨x, hx, ha⟩ := runDecoder_truncated hn hp hm hg hb
    refine .inr (.inl ⟨p, bits, n, x, hn, hp, hm, ha, hg, hb, ?_⟩)
    rw [demodulate, hx]
    simp [installDecoder, beginAttempt, raiseReject, State.setBuf, State.setPos, State.setErr, State.setFsm, ha.pos]
  · obtain ⟨x, hx, ha⟩ := runDecoder_complete hp hm hg
    refine .inr (.inr ⟨p, bits, x, hp, hm, ha, hg, ?_⟩)
    rw [demodulate, hx]
    simp [installDecoder, beginAttempt, State.setBuf, State.setPos, State.setErr, State.setFsm, ha.pos, ha.fsm, fsmAtBit]

/-- A demodulation ends in `Validating` or in `Rejected`. -/
theorem demodulate_fsm (s : State) : (demodulate s).fsm = .validating ∨ (demodulate s).fsm = .rejected := by
  rcases demodulate_cases s with ⟨_, h⟩ | ⟨_, _, _, _, _, _, _, _, _, _, h⟩ | ⟨_, _, _, _, _, _, _, h⟩ <;> rw [h]
  · exact .inr rfl
  · exact .inr rfl
  · exact .inl rfl

theorem exec_decode_rejected (h : (demodulate s).fsm = .rejected) : exec .decode s = .next (demodulate s) := by
  simp [exec, execDecode, h]

theorem exec_decode_validating (h : (demodulate s).fsm = .validating) :
    exec .decode s = .next (runCascade (fun i => ((demodulate s).buf.read i).getD 0) (demodulate s)) := by
  obtain ⟨p, hp⟩ := demodulate_buf s
  simp only [exec, execDecode, h, if_true]
  rw [withBytes_of_available]
  intro i hi
  rw [hp, read_ofPayload p i (by simpa [allBytes] using hi)]
  rfl

/-! ## Every operation -/

/-- What is known of the state after an operation that went on. -/
def Effect (s t : State) : Instr → Prop
  | .pnew => t = s.setBuf (Memory.ofPayload (payloadOf (fillByte s.dsel)))
  | .pack => t = s.setBuf ((packBuf s).write 12 0)
  | .setid => t = s.setBuf (s.buf.write 0 (cfg s.dsel).ident)
  | .setpwr => ∃ x, s.buf.read 9 = some x ∧ t = s.setBuf (s.buf.write 9 (putPower s.dsel s.cmd.power x))
  | .setmode => ∃ x, s.buf.read 6 = some x ∧ t = s.setBuf (s.buf.write 6 (putMode s.cmd.mode x))
  | .setfan => ∃ x, s.buf.read 4 = some x ∧ t = s.setBuf (s.buf.write 4 (putFan s.cmd.fan x))
  | .setswing => ∃ x, s.buf.read 1 = some x ∧ t = s.setBuf (s.buf.write 1 (putSwing s.cmd.swing x))
  | .settemp => ∃ x, s.buf.read 1 = some x ∧ t = s.setBuf (s.buf.write 1 (putTemp s.dsel s.cmd.temp x))
  | .getid => ∃ x, s.buf.read 0 = some x ∧ t = s.setResIdent x
  | .getpwr => ∃ x, s.buf.read 9 = some x ∧ t = s.setResPower (powerOf s.dsel x)
  | .getmode => ∃ x, s.buf.read 6 = some x ∧ t = s.setResMode (modeOf x)
  | .getfan => ∃ x, s.buf.read 4 = some x ∧ t = s.setResFan (fanOf x)
  | .getswing => ∃ x, s.buf.read 1 = some x ∧ t = s.setResSwing (swingOf x)
  | .gettemp => ∃ x, s.buf.read 1 = some x ∧ t = s.setResTemp (tempOf s.dsel x)
  | .getcsum => ∃ x, s.buf.read 12 = some x ∧ t = s.setResCsum x
  | .unpack => ∃ b, (firstFieldFailure s.dsel b = none ∧ t = (s.setResCommand (commandOf s.dsel b)).setErr .none) ∨
      ∃ r, firstFieldFailure s.dsel b = some r ∧ t = s.setErr r
  | .csumc => ∃ v, t = s.setSum v
  | .csumw => ∃ v, t = (s.setSum v).setBuf (s.buf.write 12 v)
  | .csumv => ∃ v w, t = (s.setSum v).setCsok w
  | .encode => ∃ b, t = s.setTxq (encodeFrame s.dsel b)
  | .demod => t = demodulate s
  | .validate => ∃ b, t = runCascade b s ∧ ∀ i < 13, (s.buf.read i).isSome
  | .decode => (t = demodulate s ∧ t.fsm = .rejected) ∨
      ((demodulate s).fsm = .validating ∧ ∃ b, t = runCascade b (demodulate s))

/-- A field write after `CMD` was found written. -/
theorem modify_effect {i : Nat} {f : Command → Byte → Byte} (h : withCmd s (fun c => modifyByte i (f c) s) = .next t) :
    ∃ x, s.buf.read i = some x ∧ t = s.setBuf (s.buf.write i (f s.cmd x)) :=
  modifyByte_eq_next (withCmd_eq_next h).2

/-- An accessor of one byte. -/
theorem access_effect {a : Nat} {k : Byte → State} (h : withBytes [a] s (fun b => .next (k (b a))) = .next t) :
    ∃ x, s.buf.read a = some x ∧ t = k x := by
  obtain ⟨h1, h2⟩ := withBytes_eq_next h
  obtain ⟨x, hx⟩ := Option.isSome_iff_exists.mp (h1 a (by simp))
  injection h2 with h2
  exact ⟨x, hx, by simpa [hx] using h2.symm⟩

/-- An operation of several bytes that has one effect. -/
theorem bytes_effect {idx : List Nat} {k : (Nat → Byte) → State} (h : withBytes idx s (fun b => .next (k b)) = .next t) :
    (∀ i ∈ idx, (s.buf.read i).isSome) ∧ t = k (fun i => (s.buf.read i).getD 0) := by
  obtain ⟨h1, h2⟩ := withBytes_eq_next h
  injection h2 with h2
  exact ⟨h1, h2.symm⟩

/-- Every operation that goes on has done what its line of `Effect` says. -/
theorem exec_effect {i : Instr} (h : exec i s = .next t) : Effect s t i := by
  cases i with
  | pnew => injection h with h; exact h.symm
  | pack => exact (exec_pack_inv h).2
  | setid => injection h with h; exact h.symm
  | setpwr => exact modify_effect (f := fun c => putPower s.dsel c.power) h
  | setmode => exact modify_effect (f := fun c => putMode c.mode) h
  | setfan => exact modify_effect (f := fun c => putFan c.fan) h
  | setswing => exact modify_effect (f := fun c => putSwing c.swing) h
  | settemp => exact modify_effect (f := fun c => putTemp s.dsel c.temp) h
  | getid => exact access_effect (k := fun x => s.setResIdent x) h
  | getpwr => exact access_effect (k := fun x => s.setResPower (powerOf s.dsel x)) h
  | getmode => exact access_effect (k := fun x => s.setResMode (modeOf x)) h
  | getfan => exact access_effect (k := fun x => s.setResFan (fanOf x)) h
  | getswing => exact access_effect (k := fun x => s.setResSwing (swingOf x)) h
  | gettemp => exact access_effect (k := fun x => s.setResTemp (tempOf s.dsel x)) h
  | getcsum => exact access_effect (k := fun x => s.setResCsum x) h
  | unpack =>
    simp only [exec, execUnpack] at h
    obtain ⟨_, h⟩ := withBytes_eq_next h
    refine ⟨fun i => (s.buf.read i).getD 0, ?_⟩
    split at h
    · next r hr =>
      injection h with h
      exact .inr ⟨r, hr, h.symm⟩
    · next hr =>
      injection h with h
      exact .inl ⟨hr, h.symm⟩
  | csumc => exact ⟨_, (bytes_effect (k := fun b => s.setSum (checksumOf s.dsel b)) h).2⟩
  | csumw =>
    exact ⟨_, (bytes_effect
      (k := fun b => writeByte csumByte (checksumOf s.dsel b) (s.setSum (checksumOf s.dsel b))) h).2⟩
  | csumv => exact ⟨_, _, (bytes_effect (k := fun b => compareChecksum b s) h).2⟩
  | encode => exact ⟨_, (bytes_effect (k := fun b => s.setTxq (encodeFrame s.dsel b)) h).2⟩
  | demod => injection h with h; exact h.symm
  | validate =>
    obtain ⟨h1, h2⟩ := bytes_effect (k := fun b => runCascade b s) h
    exact ⟨_, h2, fun i hi => h1 i (by simpa [allBytes] using hi)⟩
  | decode =>
    rcases demodulate_fsm s with hf | hf
    · rw [exec_decode_validating hf] at h
      injection h with h
      exact .inr ⟨hf, _, h.symm⟩
    · rw [exec_decode_rejected hf] at h
      injection h with h
      subst h
      exact .inl ⟨rfl, hf⟩

/-- Every operation keeps the canonical form of the buffer. -/
theorem exec_wf {i : Instr} (hw : s.buf.wf = true) (h : exec i s = .next t) : t.buf.wf = true := by
  have he := exec_effect h
  cases i with
  | pnew => rw [Effect] at he; subst he; exact wf_ofPayload _
  | pack => rw [Effect] at he; subst he; exact wf_write _ (by decide) (packBuf_wf s)
  | setid => rw [Effect] at he; subst he; exact wf_write _ (by decide) hw
  | setpwr | setmode | setfan | setswing | settemp => obtain ⟨_, _, rfl⟩ := he; exact wf_write _ (by decide) hw
  | unpack => obtain ⟨b, ⟨_, rfl⟩ | ⟨r, _, rfl⟩⟩ := he <;> simpa
  | csumv => obtain ⟨_, _, rfl⟩ := he; simpa
  | csumc => obtain ⟨_, rfl⟩ := he; simpa
  | csumw => obtain ⟨_, rfl⟩ := he; exact wf_write _ (by decide) hw
  | encode => obtain ⟨_, rfl⟩ := he; simpa
  | demod =>
    obtain ⟨p, hp⟩ := demodulate_buf s
    rw [Effect] at he; rw [he, hp]; exact wf_ofPayload p
  | validate => obtain ⟨b, rfl, _⟩ := he; rwa [runCascade_buf]
  | decode =>
    obtain ⟨p, hp⟩ := demodulate_buf s
    rcases he with ⟨rfl, _⟩ | ⟨_, b, rfl⟩
    · rw [hp]; exact wf_ofPayload p
    · rw [runCascade_buf, hp]; exact wf_ofPayload p
  | getid | getpwr | getmode | getfan | getswing | gettemp | getcsum => obtain ⟨_, _, rfl⟩ := he; simpa

end Sys2Proof.Laws
end

