-- ==== Sys2Proof/Laws/HostAccess.lean ====
section
/-! SUPPORT. All that a host read can do, and what it shows of a byte of the buffer. -/

namespace Sys2Proof.Laws

open Sys2Proof.Machine

variable {s : State}

/-- A byte that has been written is shown as it stands. -/
theorem hostView_bufByte_written {i : Nat} {x : Byte} (hi : i < 13) (h : s.buf.read i = some x) :
    hostView s (.bufByte i) = .ok (.number x.toNat) := by
  simp [hostView, bufView, bufIndexExists, hi, h]

/-- A byte that nothing has written is shown as a free value. -/
theorem hostView_bufByte_unwritten {i : Nat} (hi : i < 13) (h : s.buf.read i = none) :
    hostView s (.bufByte i) = .ok (.number (unwrittenByte i).toNat) := by
  simp [hostView, bufView, bufIndexExists, hi, h]

/-- Every register that exists shows something. -/
theorem hostView_ok {r : HostReg} (h : ∀ i, r = .bufByte i → i < 13) : ∃ v, hostView s r = .ok v := by
  cases r with
  | bufByte i => exact ⟨_, if_pos (by simpa [bufIndexExists] using h i rfl)⟩
  | dsel | cmd | sum | csok | res f | err | fsm | pos | txq | rxq => exact ⟨_, rfl⟩

/-- A host read of a register that exists changes nothing. -/
theorem hostRead_eq_next {r : HostReg} (h : ∀ i, r = .bufByte i → i < 13) : hostRead r s = .next s := by
  obtain ⟨v, hv⟩ := hostView_ok (s := s) h
  simp [hostRead, hv]

/-- A host read of an index above 12 is refused. -/
theorem hostRead_above {i : Nat} (h : 13 ≤ i) : hostRead (.bufByte i) s = .refused (.bufIndexOutOfRange i) := by
  simp [hostRead, hostView, bufView, bufIndexExists, Nat.not_lt.mpr h]

end Sys2Proof.Laws
end

