-- ==== Sys2Proof/Laws/PerInstr.lean ====
section
/-! SUPPORT. Statements about an operation as syntax, one lemma per constructor. -/

namespace Sys2Proof.Laws.TableRow

/-- The operation's code and the operation stand in one row of 30_encoding.md R66, the code is an assigned one, and the
operation is well formed. -/
def Statement (i : Instr) : Prop :=
  (encodeOp i, i) ∈ opTable ∧ opCodeAssigned (encodeOp i) = true ∧ i.wf = true

theorem pnew : Statement .pnew := ⟨by decide, by decide, rfl⟩
theorem pack : Statement .pack := ⟨by decide, by decide, rfl⟩
theorem unpack : Statement .unpack := ⟨by decide, by decide, rfl⟩
theorem setid : Statement .setid := ⟨by decide, by decide, rfl⟩
theorem setpwr : Statement .setpwr := ⟨by decide, by decide, rfl⟩
theorem setmode : Statement .setmode := ⟨by decide, by decide, rfl⟩
theorem setfan : Statement .setfan := ⟨by decide, by decide, rfl⟩
theorem setswing : Statement .setswing := ⟨by decide, by decide, rfl⟩
theorem settemp : Statement .settemp := ⟨by decide, by decide, rfl⟩
theorem getid : Statement .getid := ⟨by decide, by decide, rfl⟩
theorem getpwr : Statement .getpwr := ⟨by decide, by decide, rfl⟩
theorem getmode : Statement .getmode := ⟨by decide, by decide, rfl⟩
theorem getfan : Statement .getfan := ⟨by decide, by decide, rfl⟩
theorem getswing : Statement .getswing := ⟨by decide, by decide, rfl⟩
theorem gettemp : Statement .gettemp := ⟨by decide, by decide, rfl⟩
theorem getcsum : Statement .getcsum := ⟨by decide, by decide, rfl⟩
theorem csumc : Statement .csumc := ⟨by decide, by decide, rfl⟩
theorem csumw : Statement .csumw := ⟨by decide, by decide, rfl⟩
theorem csumv : Statement .csumv := ⟨by decide, by decide, rfl⟩
theorem encode : Statement .encode := ⟨by decide, by decide, rfl⟩
theorem demod : Statement .demod := ⟨by decide, by decide, rfl⟩
theorem validate : Statement .validate := ⟨by decide, by decide, rfl⟩
theorem decode : Statement .decode := ⟨by decide, by decide, rfl⟩

end Sys2Proof.Laws.TableRow
end

