-- ==== Sys2Proof/Tests/Slice0.lean ====
section
/-! SUPPORT. Small tests, their expected results from the tables and examples of spec/, and for every obligation with
hypotheses a concrete state and operands that meet them. -/

namespace Sys2Proof.Tests

open Sys2Proof.Machine Sys2Proof.Claims

/-! ## Helpers -/

/-- A buffer holding the bytes of `l` from index 0 on. -/
def memoryOf (l : List Byte) : Memory := l.zipIdx.map (fun x => (x.2, x.1))

/-- The Command of 95_test_vectors.md S5: power on, mode auto, fan low, swing off, 24 degrees. -/
def auto24 : Command := { power := true, mode := 0x7, fan := 0x9, swing := 0x0, temp := 24 }

/-- The finalized buffer of that Command (95_test_vectors.md S5, V1 row 1). -/
def goodBytes : Dialect → List Byte
  | .A => [0xc3, 0x80, 0x00, 0x00, 0x09, 0x00, 0x07, 0x00, 0x00, 0x20, 0x00, 0x00, 0x73]
  | .B => [0x3c, 0x78, 0xff, 0xff, 0xf9, 0xff, 0xff, 0xff, 0xff, 0xdf, 0xff, 0xff, 0x8f]

/-- The reference buffer of 90_conflicts.md C1, a checksum example and no legal Payload. -/
def referenceBytes : List Byte :=
  [0xc3, 0x4f, 0xe0, 0x00, 0xa0, 0x00, 0x00, 0x00, 0x00, 0x20, 0x00, 0x05, 0xb7]

/-- A state after reset in which the host has written `CMD` and the bytes `l`. -/
def loaded (d : Dialect) (c : Command) (l : List Byte) : State :=
  ((State.resetWith d Matcher.exact).setCmd c).setBuf (memoryOf l)

/-- The same with the good buffer. -/
def good (d : Dialect) : State := loaded d auto24 (goodBytes d)

/-- The pulses between header and trailer, each byte of the picture a row of `L` (1) and `S` (0), the first pulse the
most significant (95_test_vectors.md V5). -/
def picture (long short : Pulse) (rows : List Byte) : List Pulse :=
  rows.flatMap fun r => (List.range 8).map fun k => if r.getLsbD (7 - k) then long else short

/-- The frames of 95_test_vectors.md V5. -/
def frame : Dialect → List Pulse
  | .A => [⟨8968, 4425⟩]
    ++ picture ⟨600, 1650⟩ ⟨600, 500⟩ [0b11000011, 0b00000001, 0b00000000, 0b00000000, 0b10010000, 0b00000000, 0b11100000]
    ++ picture ⟨600, 1650⟩ ⟨600, 500⟩ [0b00000000, 0b00000000, 0b00000100, 0b00000000, 0b00000000, 0b11001110]
    ++ [⟨600, 8968⟩]
  | .B => [⟨9166, 4470⟩]
    ++ picture ⟨646, 1647⟩ ⟨646, 547⟩ [0b11000011, 0b11100001, 0b00000000, 0b00000000, 0b01100000, 0b00000000, 0b00000000]
    ++ picture ⟨646, 1647⟩ ⟨646, 547⟩ [0b00000000, 0b00000000, 0b00000100, 0b00000000, 0b00000000, 0b00001110]

/-- A state after reset in which the receiver has written `q`. -/
def received (d : Dialect) (q : List Pulse) : State := (State.resetWith d Matcher.exact).setRxq q

/-- One thing of the next state, if there is one. -/
def result {α : Type} (o : Outcome) (f : State → α) : Option α :=
  match o with
  | .next s => some (f s)
  | .fault _ => none
  | .refused _ => none

/-- The bytes of the buffer. -/
def bytes (s : State) : List Byte := s.buf.map Prod.snd

/-- The refusal of an outcome, if it is one. -/
def refusal (o : Outcome) : Option Refusal :=
  match o with
  | .next _ => none
  | .fault _ => none
  | .refused r => some r

/-! ## WellFormed smoke tests: each check refuses an ill-formed term -/

/-- 30_encoding.md R67: codes just outside the assigned ranges. -/
theorem test_wf_refuses_reserved_code :
    ∀ op ∈ [0x00#8, 0x0F#8, 0x23#8, 0x2F#8, 0x31#8, 0x3F#8, 0x43#8, 0xFF#8], Event.wf (.operation op) = false := by decide
/-- 20_memory.md R41. -/
theorem test_wf_refuses_write_above_12 : Event.wf (.hostWriteBuf 13 0x00) = false := by decide
/-- 20_memory.md R41. -/
theorem test_wf_refuses_read_above_12 : Event.wf (.hostRead (.bufByte 13)) = false := by decide
theorem test_wf_accepts : Event.wf (.operation 0x22) = true ∧ Event.wf (.hostWriteBuf 12 0x00) = true ∧
    Event.wf (.hostRead (.bufByte 12)) = true ∧ Instr.wf .decode = true := by decide
/-- The well-formedness check and the table agree on all 256 codes. -/
theorem test_wf_agrees_with_table :
    ∀ op : Byte, opCodeAssigned op = (opTable.any fun row => row.1 == op) := by decide +kernel

/-! ## Decoding: the words of 30_encoding.md R66 written out, every constructor, and reserved codes -/

theorem test_decode_payload_words : decodeTableWord 8 0b00010000 = some .pnew ∧ decodeTableWord 8 0b00010001 = some .pack ∧
    decodeTableWord 8 0b00010010 = some .unpack ∧ decodeTableWord 8 0b00010011 = some .setid ∧
    decodeTableWord 8 0b00010100 = some .setpwr ∧ decodeTableWord 8 0b00010101 = some .setmode ∧
    decodeTableWord 8 0b00010110 = some .setfan ∧ decodeTableWord 8 0b00010111 = some .setswing ∧
    decodeTableWord 8 0b00011000 = some .settemp := by decide
theorem test_decode_accessor_words : decodeTableWord 8 0b00011001 = some .getid ∧
    decodeTableWord 8 0b00011010 = some .getpwr ∧ decodeTableWord 8 0b00011011 = some .getmode ∧
    decodeTableWord 8 0b00011100 = some .getfan ∧ decodeTableWord 8 0b00011101 = some .getswing ∧
    decodeTableWord 8 0b00011110 = some .gettemp ∧ decodeTableWord 8 0b00011111 = some .getcsum := by decide
theorem test_decode_checksum_words : decodeTableWord 8 0b00100000 = some .csumc ∧
    decodeTableWord 8 0b00100001 = some .csumw ∧ decodeTableWord 8 0b00100010 = some .csumv := by decide
theorem test_decode_encoder_word : decodeTableWord 8 0b00110000 = some .encode := by decide
theorem test_decode_decoder_words : decodeTableWord 8 0b01000000 = some .demod ∧
    decodeTableWord 8 0b01000001 = some .validate ∧ decodeTableWord 8 0b01000010 = some .decode := by decide
/-- 95_test_vectors.md V9, row 1. -/
theorem test_decode_reserved : ∀ w ∈ [0x00, 0x0F, 0x23, 0x31, 0x43, 0xFF], decodeTableWord 8 w = none := by decide
/-- No two rows of the table share a code or an operation. -/
theorem test_table_rows_distinct : opTable.Pairwise (fun x y => x.1 ≠ y.1 ∧ x.2 ≠ y.2) := by decide

/-! ## Payload operations -/

/-- R91. -/
theorem test_pnew : result (exec .pnew (State.resetWith .B Matcher.exact)) bytes = some (List.replicate 13 0xff) := by
  decide
/-- R98. -/
theorem test_pack_A : result (exec .pack (loaded .A auto24 [])) bytes =
    some [0xc3, 0x80, 0x00, 0x00, 0x09, 0x00, 0x07, 0x00, 0x00, 0x20, 0x00, 0x00, 0x00] := by decide +kernel
/-- V1 rows 2 to 5 show the same for other Commands; this is row 8, clamped, in Dialect B, before `CSUMW`. -/
theorem test_pack_B : result (exec .pack (loaded .B { power := false, mode := 6, fan := 9, swing := 7, temp := 40 } []))
    bytes = some [0x3c, 0x3f, 0xff, 0xff, 0xf9, 0xff, 0xfe, 0xff, 0xff, 0xff, 0xff, 0xff, 0x00] := by decide +kernel
/-- R92: the one mutator that runs right after reset (V9). -/
theorem test_setid : result (exec .setid (State.resetWith .B Matcher.exact)) (fun t => t.buf) = some [(0, 0x3c)] := by
  decide
/-- R93. -/
theorem test_setpwr_A : result (exec .setpwr (loaded .A auto24 (List.replicate 13 0x00))) (fun t => t.buf.read 9) =
    some (some 0x20) := by decide
theorem test_setpwr_B : result (exec .setpwr (loaded .B auto24 (List.replicate 13 0xff))) (fun t => t.buf.read 9) =
    some (some 0xdf) := by decide
/-- R94. -/
theorem test_setmode : result (exec .setmode (loaded .B { auto24 with mode := 0x6 } (List.replicate 13 0xff)))
    (fun t => t.buf.read 6) = some (some 0xfe) := by decide
/-- R95. -/
theorem test_setfan : result (exec .setfan (loaded .B auto24 (List.replicate 13 0xff))) (fun t => t.buf.read 4) =
    some (some 0xf9) := by decide
/-- R96. -/
theorem test_setswing : result (exec .setswing (loaded .A { auto24 with swing := 0x7 } [0xc3, 0x80]))
    (fun t => t.buf.read 1) = some (some 0x87) := by decide
/-- R97: Dialect A, temperatures 40 and 10. -/
theorem test_settemp_A :
    result (exec .settemp (loaded .A { auto24 with temp := 40 } [0xc3, 0x00])) (fun t => t.buf.read 1) = some (some 0xc0) ∧
    result (exec .settemp (loaded .A { auto24 with temp := 10 } [0xc3, 0x00])) (fun t => t.buf.read 1) = some (some 0x40) := by
  decide
/-- R97: Dialect B, swing off in the byte. -/
theorem test_settemp_B : result (exec .settemp (loaded .B auto24 [0x3c, 0xf8])) (fun t => t.buf.read 1) =
    some (some 0x78) := by decide
/-- R99. -/
theorem test_getid : result (exec .getid (good .A)) (fun t => t.res.ident) = some 0xc3 := by decide
/-- R100. -/
theorem test_getpwr : result (exec .getpwr (loaded .A auto24 referenceBytes)) (fun t => t.res.power) = some true ∧
    result (exec .getpwr (loaded .B auto24 referenceBytes)) (fun t => t.res.power) = some false := by decide
/-- R101. -/
theorem test_getmode : result (exec .getmode (loaded .B auto24 [0, 0, 0, 0, 0, 0, 0xfe])) (fun t => t.res.mode) =
    some 0x6 := by decide
/-- R102. -/
theorem test_getfan : result (exec .getfan (good .B)) (fun t => t.res.fan) = some 0x9 ∧
    result (exec .getfan (loaded .A auto24 referenceBytes)) (fun t => t.res.fan) = some 0x0 := by decide
/-- R103. -/
theorem test_getswing : result (exec .getswing (loaded .A auto24 referenceBytes)) (fun t => t.res.swing) = some 0x7 := by
  decide
/-- R104, and its extremes: field 0 and field 31. -/
theorem test_gettemp : result (exec .gettemp (loaded .A auto24 referenceBytes)) (fun t => t.res.temp) = some 17 ∧
    result (exec .gettemp (good .B)) (fun t => t.res.temp) = some 24 := by decide
theorem test_gettemp_extremes : result (exec .gettemp (loaded .A auto24 [0, 0xf8])) (fun t => t.res.temp) = some 39 ∧
    result (exec .gettemp (loaded .B auto24 [0, 0xf8])) (fun t => t.res.temp) = some 8 ∧
    result (exec .gettemp (loaded .B auto24 [0, 0x07])) (fun t => t.res.temp) = some 39 := by decide
/-- R105. -/
theorem test_getcsum : result (exec .getcsum (loaded .A auto24 referenceBytes)) (fun t => t.res.csum) = some 0xb7 := by
  decide
/-- R106, both examples. -/
theorem test_unpack_good : result (exec .unpack (good .A)) (fun t => (t.err, resCommand t)) = some (.none, auto24) := by
  decide +kernel
theorem test_unpack_reference : result (exec .unpack (loaded .A auto24 referenceBytes))
    (fun t => (t.err, t.res, t.fsm)) = some (.fieldInvalid .mode, State.reset.res, .awaitHeader) := by decide +kernel

/-! ## Checksum operations -/

/-- R131; V4 rows 2 and 3 with the wrap. -/
theorem test_csumc : result (exec .csumc (loaded .A auto24 referenceBytes)) (fun t => t.sum) = some 0xb7 ∧
    result (exec .csumc (loaded .A auto24 (List.replicate 12 0xff))) (fun t => t.sum) = some 0xf4 ∧
    result (exec .csumc (loaded .B auto24 (List.replicate 12 0x80))) (fun t => t.sum) = some 0x0b := by decide +kernel
/-- R132, Dialect B. -/
theorem test_csumw : result (exec .csumw (loaded .B auto24 ((goodBytes .B).dropLast ++ [0x00])))
    (fun t => (t.sum, t.buf.read 12)) = some (0x8f, some 0x8f) := by decide +kernel
/-- R133. -/
theorem test_csumv : result (exec .csumv (loaded .A auto24 referenceBytes)) (fun t => (t.sum, t.csok)) = some (0xb7, true) ∧
    result (exec .csumv (loaded .B auto24 referenceBytes)) (fun t => (t.sum, t.csok)) = some (0xc2, false) := by
  decide +kernel

/-! ## Encoder and decoder operations -/

/-- V5, Dialect A. -/
theorem test_encode_A : result (exec .encode (good .A)) (fun t => t.txq) = some (frame .A) := by decide +kernel
/-- V5, Dialect B. -/
theorem test_encode_B : result (exec .encode (good .B)) (fun t => t.txq) = some (frame .B) := by decide +kernel
/-- S6: the header and 50 bit pulses, Dialect A. -/
theorem test_demod_truncated : result (exec .demod (received .A ((frame .A).take 51))) (fun t => (t.fsm, t.err, t.pos, bytes t)) =
    some (.rejected, .truncatedMessage, 51,
      [0xc3, 0x80, 0x00, 0x00, 0x09, 0x00, 0x03, 0x00, 0x00, 0x00, 0x00, 0x00, 0x00]) := by decide +kernel
/-- V6, last row, Dialect B: two junk pairs after the frame. -/
theorem test_demod_complete : result (exec .demod (received .B (frame .B ++ [⟨123, 456⟩, ⟨1, 1⟩])))
    (fun t => (t.fsm, t.err, t.pos, bytes t)) = some (.validating, .none, 105, goodBytes .B) := by decide +kernel
/-- V7: a good buffer, and the priority row with swing and fan bad. -/
theorem test_validate_accepts : result (exec .validate (good .B)) (fun t => (t.fsm, t.err, resCommand t, t.sum, t.csok)) =
    some (.accepted, .none, auto24, 0x8f, true) := by decide +kernel
theorem test_validate_priority : result (exec .validate
    (loaded .A auto24 [0xc3, 0x83, 0x00, 0x00, 0x00, 0x00, 0x07, 0x00, 0x00, 0x20, 0x00, 0x00, 0x73]))
    (fun t => (t.fsm, t.err, t.written.sum)) = some (.rejected, .fieldInvalid .swing, false) := by decide +kernel
/-- R169, and S7: a header mark one microsecond long in Dialect B. -/
theorem test_decode_accepts : result (exec .decode (received .B (frame .B))) (fun t => (t.fsm, resCommand t, t.pos)) =
    some (.accepted, auto24, 105) := by decide +kernel
theorem test_decode_header : result (exec .decode (received .B (⟨9167, 4470⟩ :: (frame .B).tail)))
    (fun t => (t.fsm, t.err, t.pos, bytes t)) = some (.rejected, .headerMismatch, 0, List.replicate 13 0xff) := by
  decide +kernel

/-! ## Steps -/

/-- V9: what runs right after reset, through `step`. -/
theorem test_step_after_reset : ∀ w ∈ [0x10, 0x13, 0x40, 0x42],
    (result (step (State.reset.withFetchWord 8 w)) (fun _ => ())).isSome = true := by decide +kernel
/-- V9: what is refused right after reset, and by which name. -/
theorem test_step_refusals : refusal (step (State.reset.withFetchWord 8 0x11)) = some .cmdHasNoValue ∧
    refusal (step (State.reset.withFetchWord 8 0x41)) = some (.bufByteHasNoValue 0) ∧
    refusal (step (State.reset.withFetchWord 8 0x43)) = some (.reservedOpCode 0x43) := by decide
/-- V9: `CMD` written, and the byte that `SETMODE` modifies has no value. -/
theorem test_setmode_without_byte : refusal (exec .setmode (loaded .A auto24 [])) = some (.bufByteHasNoValue 6) := by decide
/-- 10_state.md R27: right after reset the host can read a register that nothing has written, and nothing changes. -/
theorem test_host_read_after_reset : ∀ r ∈ [HostReg.cmd, .sum, .res .temp, .bufByte 12],
    result (step (State.reset.setPending [.hostRead r])) (fun t => t) = some State.reset := by decide
/-- 20_memory.md R41: a host write above index 12. -/
theorem test_host_write_above_12 : refusal (step (State.reset.setPending [.hostWriteBuf 13 0x00])) =
    some (.bufIndexOutOfRange 13) := by decide

/-! ## Witnesses: for each obligation with hypotheses, a state and operands that meet them -/

/-- The bytes of the good buffer, by index. -/
def goodByte (d : Dialect) (i : Nat) : Byte := (goodBytes d).getD i 0

/-- The state after `PACK` and `CSUMW` of the good Command has the good buffer. -/
theorem good_holds (d : Dialect) : bufferHolds (good d) (goodByte d) := by
  unfold bufferHolds
  cases d <;> decide

/-- The exact matcher separates the symbols of either dialect (00_scope.md R5: P-DISJ). -/
theorem exact_separates (d : Dialect) : SeparatesSymbols d Matcher.exact := by
  intro p h
  simp only [Laws.pulseMatches_exact, beq_iff_eq] at h
  obtain ⟨h1, h2⟩ := h
  rw [h1] at h2
  revert h2
  cases d <;> decide

/-- The exact matcher over the frame of the good buffer: all bits are read. -/
theorem frame_read (d : Dialect) (n : Nat) (hn : n ≤ 104) :
    bitsRead d Matcher.exact (encodeFrame d (goodByte d)) (wireBit (goodByte d)) n := by
  intro k hk
  refine ⟨_, Laws.encodeFrame_succ d _ (by omega), ?_⟩
  generalize wireBit (goodByte d) k = v
  cases d <;> cases v <;> unfold pulseCarries <;> decide

theorem frame_starts (d : Dialect) : startsWithHeader d Matcher.exact (encodeFrame d (goodByte d)) :=
  ⟨_, Laws.encodeFrame_zero d _, Laws.pulseMatches_refl _ _⟩

theorem witness_ResetLeavesTheSpecsValues : readsCmd .pack = true ∧ readsBytes .getcsum ≠ [] := by decide

theorem witness_EveryStepKeepsTheInvariant : ∃ s t : State, s.Inv ∧ step s = .next t ∧ t ≠ s := by
  refine ⟨(State.resetWith .B Matcher.exact).setPending [.operation 0x10], _, ?_, rfl, by decide⟩
  constructor <;> simp [State.resetWith, Laws.wf_nil]

theorem witness_StepRunsTheDecodedInstruction :
    (∃ (s : State) (op : Byte) (rest : List Event) (i : Instr),
      s.pending = .operation op :: rest ∧ decodeOp op = .ok i) ∧
    (∃ i, decodeTableWord 8 0x42 = some i) ∧ State.reset.pending = [] :=
  ⟨⟨State.reset.setPending [.operation 0x42], 0x42, [], .decode, rfl, rfl⟩, ⟨.decode, rfl⟩, rfl⟩

theorem witness_DecodeAndEncodeAgree : decodeOp 0x42 = .ok .decode := rfl

theorem witness_ReservedCodesAreRefused : ∃ (s : State) (op : Byte) (rest : List Event),
    s.pending = .operation op :: rest ∧ ∀ row ∈ opTable, row.1 ≠ op :=
  ⟨State.reset.setPending [.operation 0x43], 0x43, [], rfl, by decide⟩

theorem witness_OutsideWritesDoOnlyTheirRegister : ∃ s₁ s₂ s₃ s₄ : State,
    s₁.pending = .hostWriteCmd auto24 :: [] ∧ (12 < 13 ∧ s₂.pending = .hostWriteBuf 12 0xff :: []) ∧
    s₃.pending = .receiverWriteRxq (frame .A) :: [] ∧ s₄.pending = .reset .B :: [] :=
  ⟨State.reset.setPending [.hostWriteCmd auto24], State.reset.setPending [.hostWriteBuf 12 0xff],
    State.reset.setPending [.receiverWriteRxq (frame .A)], State.reset.setPending [.reset .B], rfl, ⟨by decide, rfl⟩, rfl, rfl⟩

theorem witness_BufferHasNoIndexAboveTwelve :
    (∃ t, (good .A).buf.wf = true ∧ exec .csumw (good .A) = .next t ∧ 13 ≤ 13) ∧
    (∃ s : State, 13 ≤ 13 ∧ s.pending = .hostWriteBuf 13 0x00 :: []) ∧
    (∃ s : State, 13 ≤ 13 ∧ s.pending = .hostRead (.bufByte 13) :: []) :=
  ⟨⟨_, by decide, rfl, by decide⟩, ⟨State.reset.setPending [.hostWriteBuf 13 0x00], by decide, rfl⟩,
    ⟨State.reset.setPending [.hostRead (.bufByte 13)], by decide, rfl⟩⟩

theorem witness_ReadsShowTheRegisterAndChangeNothing :
    (∃ s : State, (∀ i, HostReg.bufByte 12 = .bufByte i → i < 13) ∧ s.pending = .hostRead (.bufByte 12) :: []) ∧
    (∃ s : State, (∀ i, HostReg.sum = .bufByte i → i < 13) ∧ s.pending = .hostRead .sum :: []) ∧
    (∃ s : State, s.pending = .transmitterReadTxq :: []) ∧
    (12 < 13 ∧ (good .A).buf.read 12 = some 0x73) ∧ (12 < 13 ∧ State.reset.buf.read 12 = none) :=
  ⟨⟨State.reset.setPending [.hostRead (.bufByte 12)], by simp, rfl⟩,
    ⟨State.reset.setPending [.hostRead .sum], by simp, rfl⟩,
    ⟨State.reset.setPending [.transmitterReadTxq], rfl⟩, by decide⟩

theorem witness_StrapChangesOnlyAtReset : (∃ t, exec .pack (good .B) = .next t) ∧
    (∃ (s t : State) (rest : List Event), s.pending = .reset .B :: rest ∧ step s = .next t) ∧
    ∃ (s t : State) (e : Event) (rest : List Event), s.pending = e :: rest ∧ step s = .next t ∧ ∀ d, e ≠ .reset d :=
  ⟨⟨_, rfl⟩, ⟨State.reset.setPending [.reset .B], _, _, rfl, rfl⟩,
    State.reset.setPending [.operation 0x10], _, _, _, rfl, rfl, by simp⟩

theorem witness_SetpwrStoresThePowerBit : (good .B).written.cmd = true ∧ (good .B).buf.read 9 = some 0xdf := by decide

theorem witness_EnumMutatorsStoreTheCodeVerbatim : (good .B).written.cmd = true ∧ (good .B).buf.read 6 = some 0xff ∧
    (good .B).buf.read 4 = some 0xf9 ∧ (good .B).buf.read 1 = some 0x78 := by decide

theorem witness_SettempStoresTheClampedTemperature : (good .B).written.cmd = true ∧ (good .B).buf.read 1 = some 0x78 := by
  decide

theorem witness_MutatorsChangeOnlyTheirFieldsBits : 7 < 8 ∧
    (∃ t y, exec .setpwr (good .A) = .next t ∧ (good .A).buf.read 9 = some 0x20 ∧ t.buf.read 9 = some y) ∧
    (∃ t y, exec .setmode (good .A) = .next t ∧ (good .A).buf.read 6 = some 0x07 ∧ t.buf.read 6 = some y) ∧
    (∃ t y, exec .setfan (good .A) = .next t ∧ (good .A).buf.read 4 = some 0x09 ∧ t.buf.read 4 = some y) ∧
    (∃ t y, exec .setswing (good .A) = .next t ∧ (good .A).buf.read 1 = some 0x80 ∧ t.buf.read 1 = some y) ∧
    (∃ t y, exec .settemp (good .A) = .next t ∧ (good .A).buf.read 1 = some 0x80 ∧ t.buf.read 1 = some y) :=
  ⟨by decide, ⟨_, _, rfl, rfl, rfl⟩, ⟨_, _, rfl, rfl, rfl⟩, ⟨_, _, rfl, rfl, rfl⟩, ⟨_, _, rfl, rfl, rfl⟩,
    ⟨_, _, rfl, rfl, rfl⟩⟩

theorem witness_MutatorOrderDoesNotMatter :
    List.Perm [Instr.settemp, .setswing, .setfan, .setmode, .setpwr, .setid]
      [.setid, .setpwr, .setmode, .setfan, .setswing, .settemp] ∧
    (good .B).written.cmd = true ∧ (good .B).buf.wf = true ∧ ∀ a ∈ [1, 4, 6, 9], ((good .B).buf.read a).isSome := by
  decide

theorem witness_PackWritesTheWholePayload : (loaded .B auto24 []).written.cmd = true := rfl

theorem witness_AccessorsReadTheirField : ∀ a ∈ [0, 9, 6, 4, 1, 12], ∃ x, (good .B).buf.read a = some x := by
  intro a ha
  have : a < 13 := by revert a; decide
  exact ⟨_, good_holds .B a this⟩

theorem witness_UnpackReportsOrUnpacks : (∃ b, bytesHeld (good .A) [0, 1, 4, 6, 9] b ∧ fieldFailure .A b = none) ∧
    ∃ b, bytesHeld (good .B) [0, 1, 4, 6, 9] b ∧ fieldFailure .B (fun i => if i = 4 then 0 else b i) ≠ none := by
  refine ⟨⟨goodByte .A, ?_, by decide⟩, ⟨goodByte .B, ?_, by decide⟩⟩ <;> unfold bytesHeld <;> decide

theorem witness_UnpackInvertsPack : (loaded .B auto24 []).written.cmd = true ∧ Command.legalEnums auto24 = true ∧
    [Instr.pack, .csumw, .unpack] = [.pack, .csumw, .unpack] := by decide

theorem witness_TemperaturesThatClampAlikePackAlike :
    max 16 (min 32 (0x00#8).toNat) = max 16 (min 32 (0x10#8).toNat) ∧
    max 16 (min 32 (0xff#8).toNat) = max 16 (min 32 (0x20#8).toNat) := by decide

theorem witness_CsumcWritesTheChecksum : bytesHeld (good .A) (List.range 12) (goodByte .A) ∧
    (11 < 12 ∧ (loaded .A auto24 ((goodBytes .A).take 11)).buf.read 11 = none) := by
  refine ⟨?_, by decide⟩
  unfold bytesHeld
  decide

theorem witness_CsumwWritesTheChecksumByte : bytesHeld (good .B) (List.range 12) (goodByte .B) := by
  unfold bytesHeld
  decide

theorem witness_CsumwFinalizesTheBuffer : (∃ t, exec .csumw (good .A) = .next t ∧ bufferHolds t (goodByte .A)) ∧
    bufferHolds (good .B) (goodByte .B) := by
  refine ⟨⟨_, rfl, ?_⟩, good_holds .B⟩
  unfold bufferHolds
  decide +kernel

theorem witness_CsumvComparesTheChecksum : bufferHolds (good .A) (goodByte .A) := good_holds .A

theorem witness_SingleBitFlipChangesTheChecksum :
    11 + 1 < (goodBytes .A).length ∧ 7 < 8 ∧ (goodBytes .A)[11]? = some 0x00 := by decide

theorem witness_EncodeEmitsTheFrame : bufferHolds (good .B) (goodByte .B) ∧
    (12 < 13 ∧ (loaded .B auto24 ((goodBytes .B).take 12)).buf.read 12 = none) := ⟨good_holds .B, by decide⟩

theorem witness_FramesOfDifferentBuffersDiffer : encodeFrame .A (goodByte .A) = encodeFrame .A (goodByte .A) ∧ 12 < 13 :=
  ⟨rfl, by decide⟩

theorem witness_FirstPulseNotTheHeaderIsHeaderMismatch :
    (∀ p, (received .A []).rxq[0]? = some p → pulseMatches Matcher.exact p (headerPulse .A) = false) ∧
    (∀ p, (received .A [⟨8969, 4425⟩]).rxq[0]? = some p → pulseMatches Matcher.exact p (headerPulse .A) = false) := by
  refine ⟨fun p h => (by cases h), fun p h => ?_⟩
  cases h
  decide

theorem witness_MissingOrBadBitPulseIsTruncatedMessage :
    (∃ q bits, 0 < 104 ∧ startsWithHeader .B Matcher.exact q ∧ bitsRead .B Matcher.exact q bits 0 ∧
      noSymbolAt .B Matcher.exact q (0 + 1)) ∧
    (∃ q bits, 103 < 104 ∧ startsWithHeader .A Matcher.exact q ∧ bitsRead .A Matcher.exact q bits 103 ∧
      noSymbolAt .A Matcher.exact q (103 + 1)) := by
  refine ⟨⟨[headerPulse .B], fun _ => false, by decide, ⟨_, rfl, Laws.pulseMatches_refl _ _⟩,
    fun k hk => absurd hk (by omega), fun p h => (by cases h)⟩, ?_⟩
  refine ⟨headerPulse .A :: (List.replicate 103 (onePulse .A) ++ [trailerPulse .A]), fun _ => true, by decide,
    ⟨_, rfl, Laws.pulseMatches_refl _ _⟩, fun k hk => ⟨onePulse .A, ?_, .inl ⟨Laws.pulseMatches_refl _ _, rfl⟩⟩, fun p h => ?_⟩
  · rw [List.getElem?_cons_succ, List.getElem?_append_left (by rw [List.length_replicate]; exact hk), List.getElem?_replicate,
      if_pos hk]
  · simp only [List.getElem?_cons_succ] at h
    cases h
    decide

theorem witness_CompleteCaptureDemodulates : startsWithHeader .B Matcher.exact (encodeFrame .B (goodByte .B)) ∧
    bitsRead .B Matcher.exact (encodeFrame .B (goodByte .B)) (wireBit (goodByte .B)) 104 :=
  ⟨frame_starts .B, frame_read .B 104 (Nat.le_refl _)⟩

theorem witness_DecoderOperationsMoveFsm : (∃ t, exec .validate (good .A) = .next t) ∧
    ∃ t, exec .encode (good .A) = .next t := ⟨⟨_, rfl⟩, ⟨_, rfl⟩⟩

theorem witness_ValidateRunsTheCascade : bufferHolds (good .B) (goodByte .B) := good_holds .B

theorem witness_ValidateAcceptsExactlyTheLegalBuffers :
    ∃ t, bufferHolds (good .A) (goodByte .A) ∧ exec .validate (good .A) = .next t := ⟨_, good_holds .A, rfl⟩

theorem witness_TransmittedCommandIsReceived : (loaded .B auto24 []).written.cmd = true ∧ Command.legal auto24 = true ∧
    SeparatesSymbols .B Matcher.exact := ⟨rfl, by decide, exact_separates .B⟩

theorem witness_TransmittedCommandIsReceivedWithoutDisjointness :
    (loaded .A auto24 []).written.cmd = true ∧ Command.legal auto24 = true := ⟨rfl, by decide⟩

theorem witness_UnfinalizedFrameIsRejected : (loaded .A auto24 []).written.cmd = true ∧ Command.legalEnums auto24 = true ∧
    SeparatesSymbols .A Matcher.exact ∧ bufferSum .A (fun i => if i = 12 then 0x00 else goodByte .A i) ≠ 0x00 :=
  ⟨rfl, by decide, exact_separates .A, by decide⟩

theorem witness_OtherDialectsFrameIsHeaderMismatch : ∃ (s : State) (d : Dialect) (b : Nat → Byte),
    d ≠ s.dsel ∧ s.matcher = Matcher.exact ∧ s.rxq = encodeFrame d b :=
  ⟨received .A (encodeFrame .B (goodByte .B)), .B, goodByte .B, by decide, rfl, rfl⟩

/-- A matching table under which Dialect A takes Dialect B's header and symbols for its own. -/
def tolerantA : Matcher :=
  ⟨[(headerPulse .B, headerPulse .A), (onePulse .B, onePulse .A), (zeroPulse .B, zeroPulse .A)]⟩

theorem witness_TolerantReceiverComplementsTheOtherDialect : ∃ (s : State) (b : Nat → Byte),
    .B ≠ s.dsel ∧ s.rxq = encodeFrame .B b ∧ pulseMatches s.matcher (headerPulse .B) (headerPulse s.dsel) = true ∧
    pulseMatches s.matcher (onePulse .B) (onePulse s.dsel) = true ∧
    pulseMatches s.matcher (zeroPulse .B) (onePulse s.dsel) = false ∧
    pulseMatches s.matcher (zeroPulse .B) (zeroPulse s.dsel) = true ∧ fieldFailure .B b = none :=
  ⟨(State.resetWith .A tolerantA).setRxq (encodeFrame .B (goodByte .B)), goodByte .B, by decide, rfl, by decide, by decide,
    by decide, by decide, by decide⟩

theorem witness_OperationsCompleteExactlyWhenOperandsAreWritten :
    (∀ i ∈ [Instr.pnew, .pack, .unpack, .setid, .setpwr, .setmode, .setfan, .setswing, .settemp, .getid, .getpwr, .getmode,
      .getfan, .getswing, .gettemp, .getcsum, .csumc, .csumw, .csumv, .encode, .demod, .validate, .decode],
      operandsAvailable i (good .A) = true) ∧
    operandsAvailable .pack State.reset = false ∧ operandsAvailable .getcsum State.reset = false := by decide

theorem witness_OperationsLeaveOtherBytesAlone :
    ∃ t, (good .A).buf.wf = true ∧ exec .csumw (good .A) = .next t ∧ 11 ∉ storesTo .csumw := ⟨_, by decide, rfl, by decide⟩

theorem witness_RegistersAreWrittenOnlyByTheirWriters : ∃ t, exec .validate (good .B) = .next t := ⟨_, rfl⟩

theorem witness_TransmitSideAndAccessorsNeverReject :
    (∃ t, exec .encode (good .B) = .next t) ∧ ∃ t, exec .csumv (good .B) = .next t := ⟨⟨_, rfl⟩, ⟨_, rfl⟩⟩

theorem witness_RejectionsArePrecise : (∃ t, exec .decode State.reset = .next t ∧ t.fsm = .rejected) ∧
    ∃ t, exec .unpack (loaded .A auto24 referenceBytes) = .next t ∧ t.err ≠ .none :=
  ⟨⟨_, rfl, by decide⟩, ⟨_, rfl, by decide⟩⟩

theorem witness_ResultsDependOnlyOnOperands :
    (∃ s s' t : State, s'.dsel = s.dsel ∧ s'.matcher = s.matcher ∧ s'.cmd = s.cmd ∧ s'.written.cmd = s.written.cmd ∧
      s'.buf = s.buf ∧ s'.rxq = s.rxq ∧ exec .validate s = .next t ∧ s' ≠ s ∧ comparesChecksum .validate t ∧
      .temp ∈ resFieldsWritten .validate t) ∧
    ∃ t, exec .getcsum (good .A) = .next t ∧ .csum ∈ resFieldsWritten .getcsum t :=
  ⟨⟨good .A, ((good .A).setCsok true).setErr .headerMismatch, _, rfl, rfl, rfl, rfl, rfl, rfl, rfl, by decide,
    .inr ⟨.inl rfl, .inl (by decide +kernel)⟩, by decide +kernel⟩, _, rfl, by decide⟩

theorem witness_MatchingTablesAreTheReflexiveFunctions :
    ∀ p : Pulse, (fun o n : Pulse => decide (o.mark = n.mark)) p p = true := by simp

end Sys2Proof.Tests
end

section
/-! SUPPORT. What an operation that goes on has found written, how the operations outside the decoder treat `FSM`, and
the statements about reset, the dialect table and `FSM` settled from these. -/

namespace Sys2Proof.Proofs

open Sys2Proof.Machine Sys2Proof.Laws

variable {s t : State} {i : Instr}

/-! ## Operands (40_payload_codec.md R90) -/

/-- A field write that goes on found `CMD` and its byte written. -/
theorem modify_operands {a : Nat} {g : Command → Byte → Byte}
    (h : withCmd s (fun c => modifyByte a (g c) s) = .next t) :
    s.written.cmd = true ∧ ∀ b ∈ [a], (s.buf.read b).isSome := by
  obtain ⟨hc, h⟩ := withCmd_eq_next h
  exact ⟨hc, (withBytes_eq_next h).1⟩

/-- An operation that goes on found every register that it reads written. -/
theorem exec_next_operands (h : exec i s = .next t) :
    (readsCmd i = true → s.written.cmd = true) ∧ ∀ a ∈ readsBytes i, (s.buf.read a).isSome := by
  cases i with
  | pnew | setid | demod | decode => simp [readsCmd, readsBytes]
  | pack => simp [readsBytes, (exec_pack_inv h).1]
  | setpwr => exact (modify_operands (g := fun c => putPower s.dsel c.power) h).imp_left fun hc _ => hc
  | setmode => exact (modify_operands (g := fun c => putMode c.mode) h).imp_left fun hc _ => hc
  | setfan => exact (modify_operands (g := fun c => putFan c.fan) h).imp_left fun hc _ => hc
  | setswing => exact (modify_operands (g := fun c => putSwing c.swing) h).imp_left fun hc _ => hc
  | settemp => exact (modify_operands (g := fun c => putTemp s.dsel c.temp) h).imp_left fun hc _ => hc
  | unpack | getid | getpwr | getmode | getfan | getswing | gettemp | getcsum | csumc | csumw | csumv | encode
  | validate =>
    simp only [exec, execUnpack, execGetid, execGetpwr, execGetmode, execGetfan, execGetswing, execGettemp, execGetcsum,
      execCsumc, execCsumw, execCsumv, execEncode, execValidate] at h
    exact ⟨nofun, (withBytes_eq_next h).1⟩

/-- An operation that does not go on is refused: no operation raises a fault (log 17). -/
theorem exec_refused_of_not_next (h : ∀ t, exec i s ≠ .next t) : ∃ r, exec i s = .refused r := by
  cases he : exec i s with
  | next t => exact absurd he (h t)
  | fault r => exact nomatch r
  | refused r => exact ⟨r, rfl⟩

/-! ## Operations that neither read nor write `FSM` (10_state.md R25) -/

/-- The outcome `o` with `FSM <- f` in its next state. -/
def withFsm (f : Fsm) (o : Outcome) : Outcome := andThen o fun t => .next (t.setFsm f)

variable {f : Fsm}

/-- Reading the buffer does not look at `FSM`. -/
theorem withBytes_setFsm {idx : List Nat} {k k' : (Nat → Byte) → Outcome} (h : ∀ b, k' b = withFsm f (k b)) :
    withBytes idx (s.setFsm f) k' = withFsm f (withBytes idx s k) := by
  simp only [withBytes, State.setFsm_buf]
  split
  · rfl
  · exact h _

/-- Reading `CMD` does not look at `FSM`. -/
theorem withCmd_setFsm {k k' : Command → Outcome} (h : ∀ c, k' c = withFsm f (k c)) :
    withCmd (s.setFsm f) k' = withFsm f (withCmd s k) := by
  cases hc : s.written.cmd with
  | true => rw [withCmd_of_written hc, withCmd_of_written (s := s.setFsm f) hc]; exact h _
  | false => rw [withCmd_of_unwritten hc, withCmd_of_unwritten (s := s.setFsm f) hc]; rfl

/-- A field write of the Command does not look at `FSM`. -/
theorem modify_setFsm {a : Nat} {g : Command → Byte → Byte} :
    withCmd (s.setFsm f) (fun c => modifyByte a (g c) (s.setFsm f)) =
      withFsm f (withCmd s fun c => modifyByte a (g c) s) :=
  withCmd_setFsm fun _ => withBytes_setFsm fun _ => rfl

theorem exec_pack_setFsm : exec .pack (s.setFsm f) = withFsm f (exec .pack s) := by
  cases hc : s.written.cmd with
  | true => rw [exec_pack hc, exec_pack (s := s.setFsm f) hc]; rfl
  | false => simp only [exec, execPack, withCmd_of_unwritten hc, withCmd_of_unwritten (s := s.setFsm f) hc]; rfl

theorem exec_unpack_setFsm : exec .unpack (s.setFsm f) = withFsm f (exec .unpack s) := by
  simp only [exec, execUnpack, State.setFsm_dsel]
  refine withBytes_setFsm fun b => ?_
  cases firstFieldFailure s.dsel b <;> rfl

/-- An operation outside the decoder does the same whatever `FSM` holds, and leaves `FSM` as it was. -/
theorem exec_setFsm (hd : i ≠ .demod) (hv : i ≠ .validate) (hx : i ≠ .decode) :
    exec i (s.setFsm f) = withFsm f (exec i s) := by
  cases i with
  | pnew | setid => rfl
  | pack => exact exec_pack_setFsm
  | unpack => exact exec_unpack_setFsm
  | setpwr => exact modify_setFsm (g := fun c => putPower s.dsel c.power)
  | setmode => exact modify_setFsm (g := fun c => putMode c.mode)
  | setfan => exact modify_setFsm (g := fun c => putFan c.fan)
  | setswing => exact modify_setFsm (g := fun c => putSwing c.swing)
  | settemp => exact modify_setFsm (g := fun c => putTemp s.dsel c.temp)
  | getid | getpwr | getmode | getfan | getswing | gettemp | getcsum | csumc | csumw | csumv | encode =>
    simp only [exec, execGetid, execGetpwr, execGetmode, execGetfan, execGetswing, execGettemp, execGetcsum, execCsumc,
      execCsumw, execCsumv, execEncode]
    exact withBytes_setFsm fun _ => rfl
  | demod => exact absurd rfl hd
  | validate => exact absurd rfl hv
  | decode => exact absurd rfl hx

/-- An operation outside the decoder keeps `FSM`: setting `FSM` to what it holds changes nothing before it, so nothing
after it. -/
theorem exec_fsm (hd : i ≠ .demod) (hv : i ≠ .validate) (hx : i ≠ .decode) (h : exec i s = .next t) :
    t.fsm = s.fsm := by
  have hs : exec i s = withFsm s.fsm (exec i s) := exec_setFsm hd hv hx
  rw [h] at hs
  injection hs with hs
  rw [hs, State.setFsm_fsm]

/-! ## The decoder operations start `FSM` afresh (10_state.md R25) -/

/-- The cascade ends in `Accepted` or in `Rejected`. -/
theorem runCascade_fsm (b : Nat → Byte) (s : State) :
    (runCascade b s).fsm = .accepted ∨ (runCascade b s).fsm = .rejected := by
  rcases runCascade_cases b s with ⟨_, _, _, h⟩ | ⟨_, _, h⟩ | ⟨_, _, h⟩ <;> rw [h]
  · exact .inr rfl
  · exact .inr rfl
  · exact .inl rfl

/-- The cascade sets `FSM` to `Validating` first. -/
@[simp] theorem runCascade_setFsm (b : Nat → Byte) (s : State) (f : Fsm) : runCascade b (s.setFsm f) = runCascade b s :=
  rfl

/-- Demodulation sets `FSM` to `AwaitHeader` first. -/
@[simp] theorem demodulate_setFsm (s : State) (f : Fsm) : demodulate (s.setFsm f) = demodulate s := rfl

theorem exec_decode_fsm (s : State) : ∃ t, exec .decode s = .next t ∧ (t.fsm = .accepted ∨ t.fsm = .rejected) := by
  rcases demodulate_fsm s with h | h
  · exact ⟨_, exec_decode_validating h, runCascade_fsm _ _⟩
  · exact ⟨_, exec_decode_rejected h, .inr h⟩

theorem exec_validate_fsm (h : exec .validate s = .next t) : t.fsm = .accepted ∨ t.fsm = .rejected := by
  obtain ⟨b, rfl, -⟩ := exec_effect h
  exact runCascade_fsm b s

/-- The three decoder operations do the same whatever `FSM` holds. -/
theorem exec_decoder_setFsm (h : i = .demod ∨ i = .validate ∨ i = .decode) : exec i (s.setFsm f) = exec i s := by
  rcases h with rfl | rfl | rfl
  · simp only [exec, execDemod, demodulate_setFsm]
  · simp only [exec, execValidate, runCascade_setFsm, withBytes, State.setFsm_buf]
  · simp only [exec, execDecode]
    rw [demodulate_setFsm]

/-! ## The statements -/

/-- Settles O41, from one commutation with `FSM <- f` per group of operations: the decoder operations absorb it, the
others let it pass. -/
theorem decoderOperationsMoveFsm : Obligations.DecoderOperationsMoveFsm := by
  refine ⟨fun s => ⟨_, rfl, demodulate_fsm s⟩, exec_decode_fsm, fun s t => exec_validate_fsm,
    fun i s f => exec_decoder_setFsm, fun i s t f hd hv hx h => ⟨exec_fsm hd hv hx h, ?_⟩⟩
  rw [exec_setFsm hd hv hx, h]
  rfl

/-- Right after reset exactly the registers outside `CMD`, `BUF`, `SUM` and `RES` hold a value (10_state.md R29). -/
theorem hasValue_resetWith (d : Dialect) (m : Matcher) (r : HostReg) : hasValue (State.resetWith d m) r = true ↔
    r = .dsel ∨ r = .csok ∨ r = .err ∨ r = .fsm ∨ r = .pos ∨ r = .txq ∨ r = .rxq := by
  cases r with
  | res f => cases f <;> simp [hasValue, resFieldHasValue, State.resetWith]
  | dsel | cmd | bufByte | sum | csok | err | fsm | pos | txq | rxq => simp [hasValue, State.resetWith]

/-- Right after reset an operation with an operand in `CMD` or `BUF` is refused (10_state.md R29). -/
theorem exec_resetWith_refused (d : Dialect) (m : Matcher) (h : readsCmd i = true ∨ readsBytes i ≠ []) :
    ∃ r, exec i (State.resetWith d m) = .refused r := by
  refine exec_refused_of_not_next fun t ht => ?_
  obtain ⟨hcmd, hbuf⟩ := exec_next_operands ht
  rcases h with h | h
  · exact absurd (hcmd h) (by simp [State.resetWith])
  · obtain ⟨a, ha⟩ := List.exists_mem_of_ne_nil _ h
    exact absurd (hbuf a ha) (by simp [State.resetWith])

/-- Settles O1: the values by definition, the refusals because an operation that goes on found its operands written. -/
theorem resetLeavesTheSpecsValues : Obligations.ResetLeavesTheSpecsValues := fun d m =>
  ⟨rfl, rfl, rfl, rfl, rfl, rfl, rfl, rfl, fun _ => rfl, hasValue_resetWith d m, fun _ => exec_resetWith_refused d m⟩

/-- Settles O13: both columns and all four formulas stand in the model as the spec's table gives them. -/
theorem dialectConstants : Obligations.DialectConstants :=
  ⟨rfl, rfl, fun _ => ⟨rfl, rfl⟩, fun _ => ⟨rfl, rfl⟩⟩

end Sys2Proof.Proofs
end

section
/-! SUPPORT. What the operation table says of a code and what a step does with a presented one, and the statements about
the encoding settled from these (30_encoding.md R66, R67, R72). -/

namespace Sys2Proof.Proofs

open Sys2Proof.Machine

variable {s : State} {i : Instr} {op : Byte}

/-! ## The table (30_encoding.md R66) -/

/-- Each row's code decodes to that row's operation: no earlier row has the same code. -/
theorem decodeOp_of_mem_opTable : ∀ row ∈ opTable, decodeOp row.1 = .ok row.2 := by
  decide

theorem decodeOp_eq_ok_iff : decodeOp op = .ok i ↔ (op, i) ∈ opTable := by
  refine ⟨fun h => ?_, decodeOp_of_mem_opTable (op, i)⟩
  unfold decodeOp at h
  split at h
  next row hrow =>
    obtain rfl : row.1 = op := by simpa using List.find?_some hrow
    obtain rfl : row.2 = i := Except.ok.inj h
    exact List.mem_of_find?_eq_some hrow
  next => contradiction

theorem encodeOp_mem_opTable (i : Instr) : (encodeOp i, i) ∈ opTable := by
  cases i <;> decide

@[simp] theorem decodeOp_encodeOp (i : Instr) : decodeOp (encodeOp i) = .ok i :=
  decodeOp_eq_ok_iff.mpr (encodeOp_mem_opTable i)

/-- A code that stands in no row is reserved (30_encoding.md R67). -/
theorem decodeOp_of_reserved (h : ∀ row ∈ opTable, row.1 ≠ op) : decodeOp op = .error (.reservedCode op) := by
  have hnone : opTable.find? (fun row => row.1 == op) = none :=
    List.find?_eq_none.mpr fun row hrow => by simpa using h row hrow
  rw [decodeOp, hnone]

/-! ## Presenting a code (10_state.md R10, R27) -/

/-- A step performs the oldest pending event on the state without it. -/
theorem step_of_pending {e : Event} {rest : List Event} (h : s.pending = e :: rest) :
    step s = performEvent e (s.setPending rest) := by
  rw [step, nextEvent, h]

theorem issueOperation_of_reserved (h : ∀ row ∈ opTable, row.1 ≠ op) :
    issueOperation op s = .refused (.reservedOpCode op) := by
  rw [issueOperation, decodeBytes, decodeOp_of_reserved h]
  rfl

/-! ## The statements -/

/-- Settles O5: each of the bit patterns is the code of its operation, and decoding inverts that. -/
theorem tableCodesDecodeToTheirOperations : Obligations.TableCodesDecodeToTheirOperations :=
  ⟨decodeOp_encodeOp .pnew, decodeOp_encodeOp .pack, decodeOp_encodeOp .unpack, decodeOp_encodeOp .setid,
    decodeOp_encodeOp .setpwr, decodeOp_encodeOp .setmode, decodeOp_encodeOp .setfan, decodeOp_encodeOp .setswing,
    decodeOp_encodeOp .settemp, decodeOp_encodeOp .getid, decodeOp_encodeOp .getpwr, decodeOp_encodeOp .getmode,
    decodeOp_encodeOp .getfan, decodeOp_encodeOp .getswing, decodeOp_encodeOp .gettemp, decodeOp_encodeOp .getcsum,
    decodeOp_encodeOp .csumc, decodeOp_encodeOp .csumw, decodeOp_encodeOp .csumv, decodeOp_encodeOp .encode,
    decodeOp_encodeOp .demod, decodeOp_encodeOp .validate, decodeOp_encodeOp .decode⟩

/-- The number of reserved codes, found by trying all 256 against the table. -/
theorem length_reservedCodes :
    ((List.range 256).filter fun n => opTable.all fun row => row.1 != BitVec.ofNat 8 n).length = 233 := by
  decide +kernel

/-- Settles O7: the count over all codes, and the refusal because a code in no row of the table does not decode. -/
theorem reservedCodesAreRefused : Obligations.ReservedCodesAreRefused := by
  refine ⟨length_reservedCodes, fun s op rest hpending hreserved => ?_⟩
  calc step s = issueOperation op (s.setPending rest) := step_of_pending hpending
    _ = .refused (.reservedOpCode op) := issueOperation_of_reserved hreserved

/-- Settles O8: the three expansions stand in the model as the spec gives them. -/
theorem pseudoOperationsExpand : Obligations.PseudoOperationsExpand :=
  ⟨rfl, rfl, rfl⟩

end Sys2Proof.Proofs
end

section
/-! SUPPORT. The words of the statements and the words of the model say the same values, and the statement about the
enumerated codes (40_payload_codec.md R107). -/

namespace Sys2Proof.Proofs

open Sys2Proof.Machine Sys2Proof.Claims

variable {d : Dialect} {b : Nat → Byte} {x y : Byte}

/-! ## Values that depend on the dialect -/

theorem cfg_ident_eq_byDialect (d : Dialect) : (cfg d).ident = byDialect d 0xC3 0x3C := by
  cases d <;> rfl

theorem fillByte_eq_byDialect (d : Dialect) : fillByte d = byDialect d 0x00 0xFF := by
  cases d <;> rfl

theorem powerBit_eq_byDialect (d : Dialect) (p : Bool) :
    powerBit d p = byDialect d (BitVec.ofBool p) (BitVec.ofBool (!p)) := by
  cases d <;> cases p <;> rfl

/-- A semantic power value is read back from bit 5 under the dialect's polarity (40_payload_codec.md R100). -/
theorem powerOf_eq_byDialect (d : Dialect) (x : Byte) : powerOf d x = byDialect d (x.getLsbD 5) (!x.getLsbD 5) := by
  revert x
  cases d <;> decide

/-! ## The temperature (30_encoding.md R63) -/

theorem clampT_eq_max_min (t : Nat) : clampT t = max 16 (min 32 t) := by
  unfold clampT
  split_ifs <;> omega

theorem tempField_eq_storedTemp (d : Dialect) (temp : Byte) : tempField d temp = storedTemp d temp := by
  rw [tempField, clampT_eq_max_min]
  cases d <;> rfl

/-- The stored temperature depends on the clamped one alone. -/
theorem tempField_congr (d : Dialect) (h : max 16 (min 32 x.toNat) = max 16 (min 32 y.toNat)) :
    tempField d x = tempField d y := by
  rw [tempField, tempField, clampT_eq_max_min, clampT_eq_max_min, h]

/-- The formulas of 10_state.md R12 do not wrap on a 5-bit field, so they may be computed in bytes. -/
theorem tempOf_eq_byDialect (d : Dialect) (x : Byte) :
    tempOf d x = byDialect d (8 + (ext x 3 5).setWidth 8) (39 - (ext x 3 5).setWidth 8) := by
  unfold tempOf
  generalize ext x 3 5 = field
  revert field
  cases d <;> decide

/-! ## The enumerated codes (40_payload_codec.md R107) -/

theorem modeLegal_iff_mem : ∀ m : BitVec 3, modeLegal m = true ↔ m ∈ [0x1#3, 0x5#3, 0x6#3, 0x7#3] := by
  decide

theorem swingLegal_iff_mem : ∀ v : BitVec 3, swingLegal v = true ↔ v ∈ [0x0#3, 0x7#3] := by
  decide

theorem fanLegal_iff_mem : ∀ f : BitVec 4, fanLegal f = true ↔ f ∈ [0x5#4, 0x9#4, 0xB#4, 0xD#4] := by
  decide

/-- Settles O14: the model classifies as the spec's table does, and legality is defined as not being invalid. -/
theorem enumCodesClassify : Obligations.EnumCodesClassify :=
  ⟨fun _ => rfl, fun _ => rfl, fun _ => rfl, fun _ => bne_iff_ne, fun _ => bne_iff_ne, fun _ => bne_iff_ne⟩

/-! ## The fields of a whole buffer (40_payload_codec.md R106) -/

theorem commandOf_eq_fieldsOf (d : Dialect) (b : Nat → Byte) : commandOf d b = fieldsOf d b := by
  simp only [commandOf, powerOf_eq_byDialect, tempOf_eq_byDialect]
  rfl

theorem firstFieldFailure_eq_fieldFailure (d : Dialect) (b : Nat → Byte) :
    firstFieldFailure d b = fieldFailure d b := by
  simp only [firstFieldFailure, fieldFailure, cfg_ident_eq_byDialect, ← modeLegal_iff_mem, ← swingLegal_iff_mem,
    ← fanLegal_iff_mem, Bool.not_eq_true, Bool.not_eq_eq_eq_not, Bool.not_true]
  rfl

end Sys2Proof.Proofs
end

section
/-! SUPPORT. What an operation does on a buffer whose bytes are known, and the statements about the accessors and
`UNPACK` (40_payload_codec.md R99 to R106). -/

namespace Sys2Proof.Proofs

open Sys2Proof.Machine Sys2Proof.Laws Sys2Proof.Claims

variable {s : State} {b : Nat → Byte} {idx : List Nat} {a : Nat} {x : Byte}

/-! ## Reading known bytes -/

/-- An operation that needs the bytes of `idx`, and looks at no other, goes on with them. -/
theorem withBytes_of_bytesHeld {k : (Nat → Byte) → Outcome} (h : bytesHeld s idx b)
    (hk : ∀ b', (∀ i ∈ idx, b' i = b i) → k b' = k b) : withBytes idx s k = k b := by
  rw [withBytes_of_available fun i hi => by simp [h i hi]]
  exact hk _ fun i hi => by simp [h i hi]

/-- An accessor of a written byte. -/
theorem withBytes_of_read {k : Byte → Outcome} (h : s.buf.read a = some x) :
    withBytes [a] s (fun b => k (b a)) = k x :=
  withBytes_of_bytesHeld (b := fun _ => x) (by simpa [bytesHeld] using h) fun b' hb => by simp [hb]

theorem bytesHeld_of_bufferHolds (h : bufferHolds s b) : bytesHeld s allBytes b :=
  fun i hi => h i (List.mem_range.mp hi)

theorem summedBytesHeld_of_bufferHolds (h : bufferHolds s b) : bytesHeld s summedBytes b :=
  fun i hi => h i (Nat.lt_trans (List.mem_range.mp hi) (by decide))

theorem exec_csumw_of_bytesHeld (h : bytesHeld s summedBytes b) :
    exec .csumw s = .next ((s.setSum (checksumOf s.dsel b)).setBuf (s.buf.write 12 (checksumOf s.dsel b))) := by
  rw [exec, execCsumw, withBytes_of_bytesHeld h fun b' hb => ?_]
  · rfl
  · rw [checksumOf_congr fun i hi => hb i (List.mem_range.mpr hi)]

theorem exec_encode_of_bufferHolds (h : bufferHolds s b) :
    exec .encode s = .next (s.setTxq (encodeFrame s.dsel b)) := by
  rw [exec, execEncode, withBytes_of_bytesHeld (bytesHeld_of_bufferHolds h) fun b' hb => ?_]
  rw [encodeFrame_congr fun i hi => hb i (List.mem_range.mpr hi)]

/-! ## The statements -/

/-- Settles O25: each accessor reads one byte, and its reading is the field's formula. -/
theorem accessorsReadTheirField : Obligations.AccessorsReadTheirField := fun s x => by
  refine ⟨withBytes_of_read (k := fun v => .next (s.setResIdent v)), ?_,
    withBytes_of_read (k := fun v => .next (s.setResMode (modeOf v))),
    withBytes_of_read (k := fun v => .next (s.setResFan (fanOf v))),
    withBytes_of_read (k := fun v => .next (s.setResSwing (swingOf v))), ?_,
    withBytes_of_read (k := fun v => .next (s.setResCsum v))⟩
  · rw [← powerOf_eq_byDialect]
    exact withBytes_of_read (k := fun v => .next (s.setResPower (powerOf s.dsel v)))
  · rw [← tempOf_eq_byDialect]
    exact withBytes_of_read (k := fun v => .next (s.setResTemp (tempOf s.dsel v)))

/-- Settles O26: `UNPACK` looks at its five bytes alone, and its checks and fields are the statement's. -/
theorem unpackReportsOrUnpacks : Obligations.UnpackReportsOrUnpacks := fun s b h => by
  rw [← firstFieldFailure_eq_fieldFailure, ← commandOf_eq_fieldsOf]
  rw [exec, execUnpack, withBytes_of_bytesHeld (idx := unpackBytes) h fun b' hb => ?_]
  · cases firstFieldFailure s.dsel b <;> rfl
  · rw [firstFieldFailure_congr fun i hi => hb i ((by decide : [0, 1, 4, 6] ⊆ unpackBytes) hi),
      commandOf_congr fun i hi => hb i ((by decide : [1, 4, 6, 9] ⊆ unpackBytes) hi)]

end Sys2Proof.Proofs
end

section
/-! SUPPORT. The operations that store to the buffer, each as an equation, `PACK` as the sequence of them, and the
statements about them (40_payload_codec.md R91 to R98, R109). -/

namespace Sys2Proof.Proofs

open Sys2Proof.Machine Sys2Proof.Laws Sys2Proof.Claims

variable {s : State} {a i : Nat} {v x y : Byte} {d : Dialect} {c : Command}

/-! ## One byte -/

theorem storesByte_write (s : State) (a : Nat) (v : Byte) : storesByte s (s.setBuf (s.buf.write a v)) a v :=
  ⟨read_write_same _ _ _, fun _ hb => read_write_other _ v hb, rfl⟩

theorem bufferHolds_write {b : Nat → Byte} (h : bufferHolds s b) (a : Nat) (v : Byte) :
    bufferHolds (s.setBuf (s.buf.write a v)) (Function.update b a v) := fun i hi => by
  rw [State.setBuf_buf, read_write, Function.update_apply, h i hi]
  split <;> rfl

/-- A mutator on a written byte with `CMD` written. -/
theorem modify_of_read {g : Command → Byte → Byte} (hc : s.written.cmd = true) (hx : s.buf.read a = some x) :
    withCmd s (fun c => modifyByte a (g c) s) = .next (s.setBuf (s.buf.write a (g s.cmd x))) := by
  rw [withCmd_of_written hc, modifyByte_of_read hx]

theorem exec_setpwr_of_read (hc : s.written.cmd = true) (hx : s.buf.read 9 = some x) :
    exec .setpwr s = .next (s.setBuf (s.buf.write 9 (putPower s.dsel s.cmd.power x))) :=
  modify_of_read (g := fun c => putPower s.dsel c.power) hc hx

theorem exec_setmode_of_read (hc : s.written.cmd = true) (hx : s.buf.read 6 = some x) :
    exec .setmode s = .next (s.setBuf (s.buf.write 6 (putMode s.cmd.mode x))) :=
  modify_of_read (g := fun c => putMode c.mode) hc hx

theorem exec_setfan_of_read (hc : s.written.cmd = true) (hx : s.buf.read 4 = some x) :
    exec .setfan s = .next (s.setBuf (s.buf.write 4 (putFan s.cmd.fan x))) :=
  modify_of_read (g := fun c => putFan c.fan) hc hx

theorem exec_setswing_of_read (hc : s.written.cmd = true) (hx : s.buf.read 1 = some x) :
    exec .setswing s = .next (s.setBuf (s.buf.write 1 (putSwing s.cmd.swing x))) :=
  modify_of_read (g := fun c => putSwing c.swing) hc hx

theorem exec_settemp_of_read (hc : s.written.cmd = true) (hx : s.buf.read 1 = some x) :
    exec .settemp s = .next (s.setBuf (s.buf.write 1 (putTemp s.dsel s.cmd.temp x))) :=
  modify_of_read (g := fun c => putTemp s.dsel c.temp) hc hx

/-- Settles O17: `PNEW` reads nothing and constructs the buffer of the fill. -/
theorem pnewFillsEveryByte : Obligations.PnewFillsEveryByte := fun s =>
  ⟨fillBuffer s, rfl, fun i hi => by rw [read_fillBuffer s i hi, fillByte_eq_byDialect], rfl⟩

/-- Settles O18: `SETID` reads nothing and writes byte 0. -/
theorem setidStoresTheIdentity : Obligations.SetidStoresTheIdentity := fun s => by
  rw [← cfg_ident_eq_byDialect]
  exact ⟨_, rfl, storesByte_write s 0 _⟩

/-- Settles O19: one field write of the power bit. -/
theorem setpwrStoresThePowerBit : Obligations.SetpwrStoresThePowerBit := fun s x hc hx => by
  rw [← powerBit_eq_byDialect]
  exact ⟨_, exec_setpwr_of_read hc hx, storesByte_write s 9 _⟩

/-- Settles O20: three field writes of the code as it stands in `CMD`. -/
theorem enumMutatorsStoreTheCodeVerbatim : Obligations.EnumMutatorsStoreTheCodeVerbatim := fun s _ hc =>
  ⟨fun hx => ⟨_, exec_setmode_of_read hc hx, storesByte_write s 6 _⟩,
    fun hx => ⟨_, exec_setfan_of_read hc hx, storesByte_write s 4 _⟩,
    fun hx => ⟨_, exec_setswing_of_read hc hx, storesByte_write s 1 _⟩⟩

/-- Settles O21: one field write of the clamped temperature. -/
theorem settempStoresTheClampedTemperature : Obligations.SettempStoresTheClampedTemperature := fun s x hc hx => by
  rw [← tempField_eq_storedTemp]
  exact ⟨_, exec_settemp_of_read hc hx, storesByte_write s 1 _⟩

/-! ## The packed bytes (40_payload_codec.md R98) -/

/-- The 13 bytes that `PACK` leaves. -/
def packedByte (d : Dialect) (c : Command) : Nat → Byte
  | 0 => (cfg d).ident
  | 1 => putTemp d c.temp (putSwing c.swing (fillByte d))
  | 4 => putFan c.fan (fillByte d)
  | 6 => putMode c.mode (fillByte d)
  | 9 => putPower d c.power (fillByte d)
  | 12 => 0x00
  | _ => fillByte d

theorem read_packBuf_write (hi : i < 13) : ((packBuf s).write 12 0).read i = some (packedByte s.dsel s.cmd i) := by
  simp only [packBuf, read_write]
  interval_cases i <;> simp [packedByte]

/-- Byte 9 of a packed buffer: the fill with bit 5 replaced. -/
theorem putPower_fill (d : Dialect) (p : Bool) :
    putPower d p (byDialect d 0x00 0xFF) = byDialect d (if p then 0x20 else 0x00) (if p then 0xDF else 0xFF) := by
  cases d <;> cases p <;> decide

/-! ## Sequences -/

theorem runOps_cons_of_next {j : Instr} {l : List Instr} {t : State} (h : exec j s = .next t) :
    runOps (j :: l) s = runOps l t := by
  rw [runOps, h, andThen_next]

/-- The sequence that `PACK` stands for leaves the packed buffer but for byte 12 (40_payload_codec.md R98). -/
theorem runOps_packSequence (hc : s.written.cmd = true) :
    runOps [.pnew, .setid, .setpwr, .setmode, .setfan, .setswing, .settemp] s = .next (s.setBuf (packBuf s)) := by
  calc runOps [.pnew, .setid, .setpwr, .setmode, .setfan, .setswing, .settemp] s
    _ = runOps [.setpwr, .setmode, .setfan, .setswing, .settemp]
        (s.setBuf ((Memory.ofPayload (payloadOf (fillByte s.dsel))).write 0 (cfg s.dsel).ident)) := rfl
    _ = runOps [.setmode, .setfan, .setswing, .settemp] _ :=
      runOps_cons_of_next (exec_setpwr_of_read hc (x := fillByte s.dsel) (by simp [read_write]))
    _ = runOps [.setfan, .setswing, .settemp] _ :=
      runOps_cons_of_next (exec_setmode_of_read hc (x := fillByte s.dsel) (by simp [read_write]))
    _ = runOps [.setswing, .settemp] _ :=
      runOps_cons_of_next (exec_setfan_of_read hc (x := fillByte s.dsel) (by simp [read_write]))
    _ = runOps [.settemp] _ :=
      runOps_cons_of_next (exec_setswing_of_read hc (x := fillByte s.dsel) (by simp [read_write]))
    _ = runOps [] _ :=
      runOps_cons_of_next (exec_settemp_of_read hc (read_write_same _ _ _))
    _ = .next (s.setBuf (packBuf s)) := rfl

/-- Settles O24: the sequence of the named operations and `PACK` itself meet in the packed buffer, whose bytes are
known. -/
theorem packWritesTheWholePayload : Obligations.PackWritesTheWholePayload := fun s hc => by
  refine ⟨_, _, exec_pack hc, rfl, runOps_packSequence hc, storesByte_write _ 12 0, fun i hi => ?_⟩
  rw [State.setBuf_buf, read_packBuf_write hi]
  simp only [packedByte, cfg_ident_eq_byDialect, fillByte_eq_byDialect, putPower_fill, putTemp, tempField_eq_storedTemp]
  rfl

/-! ## Down to the frame (40_payload_codec.md R109) -/

/-- The finalized bytes of a Command: the packed ones with the checksum in byte 12. -/
def finalizedByte (d : Dialect) (c : Command) : Nat → Byte :=
  Function.update (packedByte d c) 12 (checksumOf d (packedByte d c))

/-- All that `PACK`, `CSUMW`, `ENCODE` do. -/
theorem runOps_transmit (hc : s.written.cmd = true) :
    runOps [.pack, .csumw, .encode] s =
      .next (((s.setSum (finalizedByte s.dsel s.cmd 12)).setBuf
        ((packBuf s).write 12 (finalizedByte s.dsel s.cmd 12))).setTxq
          (encodeFrame s.dsel (finalizedByte s.dsel s.cmd))) := by
  have hpacked : bufferHolds (s.setBuf ((packBuf s).write 12 0)) (packedByte s.dsel s.cmd) :=
    fun i hi => read_packBuf_write hi
  have hsum : finalizedByte s.dsel s.cmd 12 = checksumOf s.dsel (packedByte s.dsel s.cmd) := Function.update_self ..
  rw [runOps_cons_of_next (exec_pack hc),
    runOps_cons_of_next (exec_csumw_of_bytesHeld (summedBytesHeld_of_bufferHolds hpacked)),
    runOps_cons_of_next (exec_encode_of_bufferHolds (b := finalizedByte s.dsel s.cmd) fun i hi => ?_)]
  · rw [hsum, ← write_write (packBuf s) 12 0]
    rfl
  · exact bufferHolds_write hpacked 12 _ i hi

/-- Temperatures that clamp alike pack into the same buffer. -/
theorem packBuf_congr_temp (h : max 16 (min 32 x.toNat) = max 16 (min 32 y.toNat)) :
    packBuf (s.setCmd { c with temp := x }) = packBuf (s.setCmd { c with temp := y }) := by
  simp [packBuf, putTemp, tempField_congr s.dsel h]

/-- Temperatures that clamp alike pack into the same bytes. -/
theorem packedByte_congr_temp (h : max 16 (min 32 x.toNat) = max 16 (min 32 y.toNat)) :
    packedByte d { c with temp := x } = packedByte d { c with temp := y } := by
  funext i
  simp only [packedByte, putTemp, tempField_congr d h]

/-- Settles O28: the temperature enters the packed buffer, and with it the frame, through its clamped field alone. -/
theorem temperaturesThatClampAlikePackAlike : Obligations.TemperaturesThatClampAlikePackAlike := by
  refine ⟨fun s c => ⟨_, _, _, _, exec_pack rfl, exec_pack rfl, ?_, exec_pack rfl, exec_pack rfl, ?_⟩,
    fun s c x y hxy => ⟨_, _, runOps_transmit rfl, runOps_transmit rfl, ?_, ?_⟩⟩
  · exact congrArg (·.write 12 0) (packBuf_congr_temp rfl)
  · exact congrArg (·.write 12 0) (packBuf_congr_temp rfl)
  · simp [finalizedByte, packBuf_congr_temp hxy, packedByte_congr_temp hxy]
  · simp [finalizedByte, packedByte_congr_temp hxy]

end Sys2Proof.Proofs
end

section
/-! SUPPORT. The machine's checksum as the sum of the buffer's first twelve bytes, what each checksum operation does on a
buffer whose bytes are known, and the statements about them (41_checksum.md R130 to R133). -/

namespace Sys2Proof.Proofs

open Sys2Proof.Machine Sys2Proof.Laws Sys2Proof.Claims

variable {s : State} {b b' : Nat → Byte}

/-! ## The sum (41_checksum.md R130) -/

theorem cfg_seed_eq_byDialect (d : Dialect) : (cfg d).seed = byDialect d 0x00 0x0B := by
  cases d <;> rfl

/-- The last byte plays no part. -/
theorem compute_concat (l : List Byte) (last seed : Byte) : compute (l ++ [last]) seed = sumBytes seed l := by
  rw [compute, List.dropLast_concat]

/-- The 13 indices of the buffer are the 12 summed ones and the last. -/
theorem checksumOf_eq_bufferSum (d : Dialect) (b : Nat → Byte) : checksumOf d b = bufferSum d b := by
  rw [bufferSum, ← cfg_seed_eq_byDialect, List.range_succ, List.map_append, List.map_singleton, compute_concat]
  rfl

/-- Settles O29: without its last byte a sequence is summed with wrapping additions, which is the exact sum modulo 256. -/
theorem computeIsTheSumModulo256 : Obligations.ComputeIsTheSumModulo256 :=
  ⟨fun l last seed => by rw [compute_concat, sumBytes_toNat],
    fun l x y seed => by rw [compute_concat, compute_concat],
    checksumOf_eq_bufferSum⟩

/-! ## The operations on known bytes -/

theorem exec_csumc_of_bytesHeld (h : bytesHeld s summedBytes b) :
    exec .csumc s = .next (s.setSum (checksumOf s.dsel b)) := by
  rw [exec, execCsumc, withBytes_of_bytesHeld h fun b' hb => ?_]
  rw [checksumOf_congr fun i hi => hb i (List.mem_range.mpr hi)]

/-- The comparison depends on the buffer's 13 bytes alone. -/
theorem compareChecksum_congr (h : ∀ i < 13, b i = b' i) : compareChecksum b s = compareChecksum b' s := by
  rw [compareChecksum, compareChecksum, checksumOf_congr fun i hi => h i (Nat.lt_succ_of_lt hi),
    h csumByte (by decide)]

theorem exec_csumv_of_bufferHolds (h : bufferHolds s b) : exec .csumv s = .next (compareChecksum b s) := by
  rw [exec, execCsumv, withBytes_of_bytesHeld (bytesHeld_of_bufferHolds h) fun b' hb => ?_]
  rw [compareChecksum_congr fun i hi => hb i (List.mem_range.mpr hi)]

/-- A write outside the bytes that an operation reads leaves them as they were. -/
theorem bytesHeld_write_of_notMem {idx : List Nat} {a : Nat} (h : bytesHeld s idx b) (ha : a ∉ idx) (v : Byte) :
    bytesHeld (s.setBuf (s.buf.write a v)) idx b := fun i hi => by
  rw [State.setBuf_buf, read_write_other _ v (ne_of_mem_of_not_mem hi ha), h i hi]

/-! ## The statements -/

/-- Settles O30: the equation on known bytes, and no `CSUMC` that goes on has missed a byte. -/
theorem csumcWritesTheChecksum : Obligations.CsumcWritesTheChecksum := by
  refine ⟨fun s b h => ?_, fun s a ha hnone => ?_⟩
  · rw [← checksumOf_eq_bufferSum]
    exact exec_csumc_of_bytesHeld h
  · refine exec_refused_of_not_next fun t ht => ?_
    have hwritten := (exec_next_operands ht).2 a (List.mem_range.mpr ha)
    simp [hnone] at hwritten

/-- Settles O31: byte 12 is not summed, so the second `CSUMW` finds the same sum and writes it over itself. -/
theorem csumwWritesTheChecksumByte : Obligations.CsumwWritesTheChecksumByte := fun s b h => by
  rw [← checksumOf_eq_bufferSum]
  have hsummed : bytesHeld ((s.setSum (checksumOf s.dsel b)).setBuf (s.buf.write 12 (checksumOf s.dsel b)))
      summedBytes b :=
    bytesHeld_write_of_notMem (s := s.setSum (checksumOf s.dsel b)) h (by decide) _
  refine ⟨_, exec_csumw_of_bytesHeld h, storesByte_write (s.setSum (checksumOf s.dsel b)) 12 _, ?_⟩
  rw [exec_csumw_of_bytesHeld hsummed, State.setBuf_buf, State.setBuf_dsel, State.setSum_dsel, write_write]
  rfl

/-- Settles O33: `CSUMV` is the comparison of the buffer's checksum with its byte 12. -/
theorem csumvComparesTheChecksum : Obligations.CsumvComparesTheChecksum := fun s b h => by
  rw [exec_csumv_of_bufferHolds h, compareChecksum, checksumOf_eq_bufferSum]
  rfl

end Sys2Proof.Proofs
end

section
/-! SUPPORT. The frame that `ENCODE` sends, entry by entry in the literal values of the dialects, and the statement about
it (42_timing_encoder.md R140 to R145). -/

namespace Sys2Proof.Proofs

open Sys2Proof.Machine Sys2Proof.Laws Sys2Proof.Claims

variable {s : State} {i : Instr} {a : Nat}

/-- An operation that reads an unwritten byte is refused (40_payload_codec.md R90). -/
theorem exec_refused_of_unwritten (ha : a ∈ readsBytes i) (h : s.buf.read a = none) : ∃ r, exec i s = .refused r :=
  exec_refused_of_not_next fun _ ht => by simpa [h] using (exec_next_operands ht).2 a ha

theorem headerPulse_eq_byDialect (d : Dialect) : headerPulse d = byDialect d ⟨8968, 4425⟩ ⟨9166, 4470⟩ := by
  cases d <;> rfl

/-- A 1 bit has the long space in Dialect A and the short one in Dialect B (R143). -/
theorem symbolPulse_eq_byDialect (d : Dialect) (v : Bool) :
    symbolPulse d v = if v then byDialect d ⟨600, 1650⟩ ⟨646, 547⟩ else byDialect d ⟨600, 500⟩ ⟨646, 1647⟩ := by
  cases d <;> cases v <;> rfl

theorem trailerPulses_eq_byDialect (d : Dialect) : trailerPulses d = byDialect d [⟨600, 8968⟩] [] := by
  cases d <;> rfl

theorem length_encodeFrame (d : Dialect) (b : Nat → Byte) : (encodeFrame d b).length = byDialect d 106 105 := by
  rw [encodeFrame, trailerPulses_eq_byDialect]
  cases d <;> simp [byDialect]

/-- After the header and the 104 symbols stands the trailer, if any (R144). -/
theorem encodeFrame_trailer (d : Dialect) (b : Nat → Byte) :
    (encodeFrame d b)[105]? = byDialect d (some ⟨600, 8968⟩) none := by
  rw [encodeFrame, List.getElem?_append_right (by simp), trailerPulses_eq_byDialect]
  cases d <;> simp [byDialect]

/-- Settles O35: the entries of the frame on a whole buffer, and no `ENCODE` that goes on has missed a byte. -/
theorem encodeEmitsTheFrame : Obligations.EncodeEmitsTheFrame := by
  refine ⟨fun s b h => ?_, fun s a ha hnone => exec_refused_of_unwritten (List.mem_range.mpr ha) hnone⟩
  refine ⟨_, exec_encode_of_bufferHolds h, length_encodeFrame s.dsel b, ?_, fun n hn => ?_,
    encodeFrame_trailer s.dsel b⟩
  · rw [encodeFrame_zero, headerPulse_eq_byDialect]
  · rw [encodeFrame_succ s.dsel b hn, symbolPulse_eq_byDialect, wireBit]

end Sys2Proof.Proofs
end

section
/-! SUPPORT. Demodulation in the words of the statements (what a pulse carries, the buffer after some bits), the cascade
on a buffer whose bytes are known, and the statements about `DEMOD`, `VALIDATE` and `DECODE` (43_timing_decoder.md). -/

namespace Sys2Proof.Proofs

open Sys2Proof.Machine Sys2Proof.Laws Sys2Proof.Claims

variable {s t : State} {b b' : Nat → Byte} {d : Dialect} {m : Matcher} {q : List Pulse} {bits : Nat → Bool} {n : Nat}

/-! ## Bit pulses (43_timing_decoder.md R154, R157, R158) -/

/-- The model's classification gives a pulse the value that the pulse carries. -/
theorem classifyPulse_map_of_pulseCarries {p : Pulse} {v : Bool} (h : pulseCarries d m p v) :
    (classifyPulse d m p).map (symbolBit d) = some v := by
  rcases h with ⟨hone, rfl⟩ | ⟨hone, hzero, rfl⟩
  · rw [classifyPulse, if_pos hone]
    cases d <;> rfl
  · rw [classifyPulse, if_neg (by simp [hone]), if_pos hzero]
    cases d <;> rfl

theorem goodBits_of_bitsRead (h : bitsRead d m q bits n) : GoodBits d m q bits n := fun k hk => by
  obtain ⟨p, hp, hcarries⟩ := h k hk
  rw [hp, Option.bind_some, classifyPulse_map_of_pulseCarries hcarries]

theorem classifyPulse_eq_none_of_noSymbolAt (h : noSymbolAt d m q n) : q[n]?.bind (classifyPulse d m) = none :=
  Option.bind_eq_none_iff.mpr fun p hp => by
    obtain ⟨hone, hzero⟩ := h p hp
    rw [classifyPulse, if_neg (by simp [hone]), if_neg (by simp [hzero])]

/-! ## The buffer after some bits (43_timing_decoder.md R159) -/

theorem fillByte_getLsbD {k : Nat} (hk : k < 8) : (fillByte d).getLsbD k = byDialect d false true := by
  rw [fillByte_eq_byDialect]
  cases d with
  | A => exact BitVec.getLsbD_zero
  | B => exact (BitVec.getLsbD_allOnes (v := 8)).trans (decide_eq_true hk)

/-- The registers of demodulation after `n` bits, written back to the state. -/
theorem bufferAfterBits_of_afterBits {x : Decoder} (ha : AfterBits t.dsel bits n x)
    (hbuf : t.buf = Memory.ofPayload x.payload) : bufferAfterBits t bits n := by
  have hread (i : Nat) (hi : i < 13) : t.buf.read i = some x.payload[i] := by rw [hbuf, read_ofPayload _ i hi]
  refine ⟨fun i => (t.buf.read i).getD 0, fun i hi => by simp [hread i hi], fun k hk => ?_⟩
  calc wireBit (fun i => (t.buf.read i).getD 0) k
    _ = payloadBit x.payload k hk := by simp only [wireBit, payloadBit, hread (k / 8) (by omega), Option.getD_some]
    _ = if k < n then bits k else (fillByte t.dsel).getLsbD (k % 8) := ha.payload k hk
    _ = if k < n then bits k else byDialect t.dsel false true := by rw [fillByte_getLsbD (Nat.mod_lt k (by decide))]

/-! ## Demodulation, forward (43_timing_decoder.md R151) -/

/-- A demodulation that is rejected writes its registers back and records the reason. -/
theorem demodulate_of_reject {r : Reason} {x : Decoder}
    (h : runDecoder s.dsel s.matcher s.rxq 105 (startDecoder s.dsel) = .reject r x) :
    demodulate s = rejectedWith r ((s.setBuf (Memory.ofPayload x.payload)).setPos x.pos) := by
  rw [demodulate, h]
  rfl

/-- A demodulation that runs to its end writes its registers back and clears `ERR`. -/
theorem demodulate_of_goOn {x : Decoder}
    (h : runDecoder s.dsel s.matcher s.rxq 105 (startDecoder s.dsel) = .goOn x) :
    demodulate s = { s with buf := Memory.ofPayload x.payload, pos := x.pos, err := .none, fsm := x.fsm } := by
  rw [demodulate, h]
  rfl

/-- A rejected demodulation is the whole of `DEMOD` and of `DECODE` (43_timing_decoder.md R169). -/
theorem exec_of_demodulate_rejected {i : Instr} (hi : i = .demod ∨ i = .decode) (h : (demodulate s).fsm = .rejected) :
    exec i s = .next (demodulate s) := by
  rcases hi with rfl | rfl
  · rfl
  · exact exec_decode_rejected h

/-- Settles O39: the run of the decoder stops at the bad pulse with the bits before it in its registers. -/
theorem missingOrBadBitPulseIsTruncatedMessage : Obligations.MissingOrBadBitPulseIsTruncatedMessage := by
  intro s i bits n hi hn ⟨p, hp, hheader⟩ hread hbad
  obtain ⟨x, hx, ha⟩ := runDecoder_truncated hn hp hheader (goodBits_of_bitsRead hread)
    (classifyPulse_eq_none_of_noSymbolAt hbad)
  have ht := demodulate_of_reject hx
  refine ⟨_, exec_of_demodulate_rejected hi (by rw [ht]; rfl), ?_⟩
  rw [ht]
  refine ⟨bufferAfterBits_of_afterBits ha rfl, ?_⟩
  rw [ha.pos, Nat.add_comm n 1]
  rfl

/-- Settles O40: the run of the decoder reaches its end with all 104 bits in its registers. -/
theorem completeCaptureDemodulates : Obligations.CompleteCaptureDemodulates := by
  intro s bits ⟨p, hp, hheader⟩ hread
  obtain ⟨x, hx, ha⟩ := runDecoder_complete hp hheader (goodBits_of_bitsRead hread)
  refine ⟨demodulate s, rfl, ?_⟩
  rw [demodulate_of_goOn hx]
  refine ⟨bufferAfterBits_of_afterBits ha rfl, ?_⟩
  rw [ha.pos, ha.fsm]
  rfl

/-! ## The cascade (43_timing_decoder.md R161 to R166) -/

/-- The cascade depends on the buffer's 13 bytes alone. -/
theorem runCascade_congr (h : ∀ i < 13, b i = b' i) : runCascade b s = runCascade b' s := by
  have hfields (l : List Nat) (hl : l ⊆ allBytes) : ∀ i ∈ l, b i = b' i := fun i hi => h i (List.mem_range.mp (hl hi))
  simp only [runCascade, firstFieldFailure_congr (hfields [0, 1, 4, 6] (by decide)), compareChecksum_congr h,
    commandOf_congr (hfields [1, 4, 6, 9] (by decide))]

theorem exec_validate_of_bufferHolds (h : bufferHolds s b) : exec .validate s = .next (runCascade b s) := by
  rw [exec, execValidate, withBytes_of_bytesHeld (bytesHeld_of_bufferHolds h) fun b' hb => ?_]
  rw [runCascade_congr fun i hi => hb i (List.mem_range.mpr hi)]

/-- Settles O42: the three ends of the cascade are the three branches of the statement. -/
theorem validateRunsTheCascade : Obligations.ValidateRunsTheCascade := fun s b h => by
  rw [exec_validate_of_bufferHolds h, ← firstFieldFailure_eq_fieldFailure, ← checksumOf_eq_bufferSum,
    ← commandOf_eq_fieldsOf]
  rcases runCascade_cases b s with ⟨r, hfail, -, hend⟩ | ⟨hpass, hsum, hend⟩ | ⟨hpass, hsum, hend⟩
  · rw [hend, hfail]
    rfl
  · simp only [hend, hpass, decide_eq_false hsum, if_neg hsum]
    rfl
  · simp only [hend, hpass, decide_eq_true hsum, if_pos hsum]

/-- Settles O44: `DECODE` goes on in every state, and it stands in the model as this composition. -/
theorem decodeIsDemodThenValidate : Obligations.DecodeIsDemodThenValidate := fun s => by
  obtain ⟨t, ht, -⟩ := exec_decode_fsm s
  exact ⟨⟨t, ht⟩, rfl⟩

end Sys2Proof.Proofs
end

section
/-! SUPPORT. A demodulation that finds no header, the operations that keep `ERR`, and the statements about rejections
settled from these (60_exceptions.md R182, R193). -/

namespace Sys2Proof.Proofs

open Sys2Proof.Machine Sys2Proof.Laws Sys2Proof.Claims

variable {s t : State} {i : Instr}

/-- A whole buffer of the fill, in the values of the two dialects (40_payload_codec.md R91). -/
theorem bufferHolds_fill (hbuf : t.buf = Memory.ofPayload (payloadOf (fillByte s.dsel))) :
    bufferHolds t fun _ => byDialect s.dsel 0x00 0xFF := fun i hi => by
  rw [hbuf, read_ofPayload _ i hi, payloadOf_getElem _ i hi, fillByte_eq_byDialect]

/-- Settles O38: the run of the decoder is rejected at its first step, with the registers it started from. -/
theorem firstPulseNotTheHeaderIsHeaderMismatch : Obligations.FirstPulseNotTheHeaderIsHeaderMismatch := by
  intro s i hi hheader
  have ht := demodulate_of_reject (runDecoder_noHeader hheader)
  refine ⟨_, exec_of_demodulate_rejected hi (by rw [ht]; rfl), ?_⟩
  rw [ht]
  exact ⟨bufferHolds_fill rfl, rfl⟩

/-- An operation outside `UNPACK` and the decoder keeps `ERR`: its effect is on the buffer, `RES`, the checksum registers
or `TXQ` (10_state.md R20). -/
theorem exec_err (hu : i ≠ .unpack) (hd : i ≠ .demod) (hv : i ≠ .validate) (hx : i ≠ .decode)
    (h : exec i s = .next t) : t.err = s.err := by
  have he := exec_effect h
  cases i with
  | pnew | pack | setid => rw [he, State.setBuf_err]
  | setpwr | setmode | setfan | setswing | settemp =>
    obtain ⟨_, -, rfl⟩ := he
    rw [State.setBuf_err]
  | getid | getpwr | getmode | getfan | getswing | gettemp | getcsum =>
    obtain ⟨_, -, rfl⟩ := he
    rfl
  | csumc | csumw | encode =>
    obtain ⟨_, rfl⟩ := he
    rfl
  | csumv =>
    obtain ⟨_, _, rfl⟩ := he
    rfl
  | unpack => exact absurd rfl hu
  | demod => exact absurd rfl hd
  | validate => exact absurd rfl hv
  | decode => exact absurd rfl hx

/-- Settles O54: none of the listed operations is `UNPACK` or one of the decoder's, and every other one keeps `ERR` and
`FSM`. -/
theorem transmitSideAndAccessorsNeverReject : Obligations.TransmitSideAndAccessorsNeverReject := by
  intro i s t hi h
  have hu : i ≠ .unpack := ne_of_mem_of_not_mem hi (by decide)
  have hd : i ≠ .demod := ne_of_mem_of_not_mem hi (by decide)
  have hv : i ≠ .validate := ne_of_mem_of_not_mem hi (by decide)
  have hx : i ≠ .decode := ne_of_mem_of_not_mem hi (by decide)
  exact ⟨exec_err hu hd hv hx h, exec_fsm hd hv hx h⟩

end Sys2Proof.Proofs
end

section
/-! SUPPORT. The invariant under each register write, each operation and each event, and the statements about the
invariant settled from these (10_state.md sections 6 to 8 and 12, 20_memory.md section 1). -/

namespace Sys2Proof.Proofs

open Sys2Proof.Machine Sys2Proof.Laws

variable {s t : State} {i : Instr} {m : Memory} {p : Payload} {a n : Nat} {v : Byte} {b : Nat → Byte} {r : Reason}

/-! ## Under a register write -/

/-- A new buffer in canonical form that has a value wherever the old one had. -/
theorem inv_setBuf (h : s.Inv) (hwf : m.wf = true) (hkept : ∀ i, (s.buf.read i).isSome → (m.read i).isSome) :
    (s.setBuf m).Inv :=
  { h with
    bufWf := hwf
    validating := fun hf =>
      have ⟨hpos, hwhole⟩ := h.validating hf
      ⟨hpos, fun i hi => hkept i (hwhole i hi)⟩ }

theorem inv_storeByte (h : s.Inv) (ha : a < 13) : (s.setBuf (s.buf.write a v)).Inv :=
  inv_setBuf h (wf_write v ha h.bufWf) fun _ => isSome_read_write

/-- A written byte of a canonical buffer has an index up to 12. -/
theorem lt_of_isSome_read (h : m.wf = true) (ha : (m.read a).isSome) : a < 13 := by
  by_contra hge
  simp [read_of_wf h (Nat.not_lt.mp hge)] at ha

theorem inv_setWholeBuf (h : s.Inv) (hwf : m.wf = true) (hwhole : ∀ i < 13, (m.read i).isSome) : (s.setBuf m).Inv :=
  inv_setBuf h hwf fun i hi => hwhole i (lt_of_isSome_read h.bufWf hi)

theorem isSome_read_ofPayload (p : Payload) : ∀ i < 13, ((Memory.ofPayload p).read i).isSome := fun i hi => by
  rw [read_ofPayload p i hi, Option.isSome_some]

theorem inv_setSum (h : s.Inv) : (s.setSum v).Inv := { h with csokSum := fun _ => rfl }

/-- A comparison writes `SUM` with `CSOK` (10_state.md R18). -/
theorem inv_compared (h : s.Inv) (w : Bool) : ((s.setSum v).setCsok w).Inv := { h with csokSum := fun _ => rfl }

theorem inv_setErr (h : s.Inv) : (s.setErr r).Inv := { h with }

theorem inv_setPending (h : s.Inv) (es : List Event) : (s.setPending es).Inv := { h with }

theorem inv_setTxq_encodeFrame (h : s.Inv) : (s.setTxq (encodeFrame s.dsel b)).Inv :=
  { h with txqFrame := .inr ⟨b, rfl⟩ }

/-- A write of fields of `RES` and of their written marks, which loses no mark of a Command field. -/
theorem inv_setRes {res : Result} {w : Written} (h : s.Inv) (hsum : w.sum = s.written.sum)
    (hcommand : s.written.power = true ∧ s.written.mode = true ∧ s.written.fan = true ∧ s.written.swing = true ∧
        s.written.temp = true →
      w.power = true ∧ w.mode = true ∧ w.fan = true ∧ w.swing = true ∧ w.temp = true)
    (htemp : w.temp = true → 8 ≤ res.temp.toNat ∧ res.temp.toNat ≤ 39) :
    ({ s with res := res, written := w } : State).Inv :=
  { h with
    accepted := fun hf => hcommand (h.accepted hf)
    csokSum := fun hc => hsum.trans (h.csokSum hc)
    tempRange := htemp }

theorem inv_setResCommand {c : Command} (h : s.Inv) (hc : 8 ≤ c.temp.toNat ∧ c.temp.toNat ≤ 39) :
    (s.setResCommand c).Inv :=
  { h with accepted := fun _ => ⟨rfl, rfl, rfl, rfl, rfl⟩, tempRange := fun _ => hc }

theorem temp_range_of_commandOf (d : Dialect) (b : Nat → Byte) :
    8 ≤ (commandOf d b).temp.toNat ∧ (commandOf d b).temp.toNat ≤ 39 :=
  tempOf_range d (b swingTempByte)

/-- A rejection ends in a state that promises nothing of `POS`, `BUF` and `RES`. -/
theorem inv_raiseReject (h : s.Inv) (r : Reason) : (raiseReject r s).Inv :=
  { h with notReading := nofun, awaiting := nofun, validating := nofun, accepted := nofun }

/-! ## Under an operation -/

theorem inv_runCascade (h : s.Inv) : (runCascade b s).Inv := by
  rcases runCascade_cases b s with ⟨r, -, -, e⟩ | ⟨-, -, e⟩ | ⟨-, -, e⟩ <;> rw [e]
  · exact inv_raiseReject h r
  · exact inv_raiseReject (inv_compared h false) .checksumMismatch
  · have hcompared := inv_compared (v := checksumOf s.dsel b) h true
    exact { inv_setResCommand hcompared (temp_range_of_commandOf s.dsel b) with
      notReading := nofun, awaiting := nofun, validating := nofun, accepted := fun _ => ⟨rfl, rfl, rfl, rfl, rfl⟩ }

/-- A rejected demodulation leaves a whole buffer and the cursor inside 0..105. -/
theorem inv_rejectedDemodulation (h : s.Inv) (hn : n ≤ 105) :
    (raiseReject r ((s.setBuf (Memory.ofPayload p)).setPos n)).Inv :=
  { h with
    bufWf := wf_ofPayload p, posBound := hn, notReading := nofun, awaiting := nofun, validating := nofun
    accepted := nofun }

theorem inv_demodulate (h : s.Inv) : (demodulate s).Inv := by
  rcases demodulate_cases s with ⟨-, e⟩ | ⟨_, _, n, x, hn, -, -, -, -, -, e⟩ | ⟨_, _, x, -, -, -, -, e⟩ <;> rw [e]
  · exact inv_rejectedDemodulation h (Nat.zero_le _)
  · exact inv_rejectedDemodulation h (by omega)
  · exact { h with
      bufWf := wf_ofPayload x.payload, posBound := Nat.le_refl 105, notReading := nofun, awaiting := nofun
      validating := fun _ => ⟨rfl, isSome_read_ofPayload x.payload⟩, accepted := nofun }

/-- Every operation keeps the invariant. -/
theorem exec_inv (h : s.Inv) (he : exec i s = .next t) : t.Inv := by
  have heffect := exec_effect he
  cases i with
  | pnew => rw [heffect]; exact inv_setWholeBuf h (wf_ofPayload _) (isSome_read_ofPayload _)
  | pack =>
    rw [heffect]
    refine inv_setWholeBuf h (wf_write _ (by decide) (packBuf_wf s)) fun i hi => ?_
    rw [read_packBuf_write hi, Option.isSome_some]
  | setid => rw [heffect]; exact inv_storeByte h (by decide)
  | setpwr | setmode | setfan | setswing | settemp =>
    obtain ⟨x, -, rfl⟩ := heffect
    exact inv_storeByte h (by decide)
  | getid | getcsum =>
    obtain ⟨x, -, rfl⟩ := heffect
    exact inv_setRes h rfl id h.tempRange
  | getpwr =>
    obtain ⟨x, -, rfl⟩ := heffect
    exact inv_setRes h rfl (fun ⟨_, hrest⟩ => ⟨rfl, hrest⟩) h.tempRange
  | getmode =>
    obtain ⟨x, -, rfl⟩ := heffect
    exact inv_setRes h rfl (fun ⟨hp, _, hrest⟩ => ⟨hp, rfl, hrest⟩) h.tempRange
  | getfan =>
    obtain ⟨x, -, rfl⟩ := heffect
    exact inv_setRes h rfl (fun ⟨hp, hm, _, hrest⟩ => ⟨hp, hm, rfl, hrest⟩) h.tempRange
  | getswing =>
    obtain ⟨x, -, rfl⟩ := heffect
    exact inv_setRes h rfl (fun ⟨hp, hm, hf, _, ht⟩ => ⟨hp, hm, hf, rfl, ht⟩) h.tempRange
  | gettemp =>
    obtain ⟨x, -, rfl⟩ := heffect
    exact inv_setRes h rfl (fun ⟨hp, hm, hf, hs, _⟩ => ⟨hp, hm, hf, hs, rfl⟩) fun _ => tempOf_range s.dsel x
  | unpack =>
    obtain ⟨b, ⟨-, rfl⟩ | ⟨r, -, rfl⟩⟩ := heffect
    · exact inv_setErr (inv_setResCommand h (temp_range_of_commandOf s.dsel b))
    · exact inv_setErr h
  | csumc => obtain ⟨v, rfl⟩ := heffect; exact inv_setSum h
  | csumw => obtain ⟨v, rfl⟩ := heffect; exact inv_storeByte (inv_setSum h) (by decide)
  | csumv => obtain ⟨v, w, rfl⟩ := heffect; exact inv_compared h w
  | encode => obtain ⟨b, rfl⟩ := heffect; exact inv_setTxq_encodeFrame h
  | demod => rw [heffect]; exact inv_demodulate h
  | validate => obtain ⟨b, rfl, -⟩ := heffect; exact inv_runCascade h
  | decode =>
    obtain ⟨rfl, -⟩ | ⟨-, b, rfl⟩ := heffect
    · exact inv_demodulate h
    · exact inv_runCascade (inv_demodulate h)

/-! ## Under an event -/

/-- Settles O2: every register that the invariant speaks of is empty or 0 after reset, and `FSM` is `AwaitHeader`. -/
theorem invariantHoldsAfterReset : Obligations.InvariantHoldsAfterReset := fun _ _ _ =>
  { bufWf := wf_nil
    posBound := Nat.zero_le _
    notReading := nofun
    awaiting := fun _ => rfl
    validating := nofun
    accepted := nofun
    txqFrame := .inl rfl
    csokSum := nofun
    tempRange := nofun }

theorem issueOperation_of_decodeOp {op : Byte} (h : decodeOp op = .ok i) : issueOperation op s = exec i s := by
  rw [issueOperation, decodeBytes, h]
  rfl

/-- An issued code that is performed decodes to an operation. -/
theorem issueOperation_eq_next {op : Byte} (h : issueOperation op s = .next t) : ∃ i, exec i s = .next t := by
  cases hop : decodeOp op with
  | ok i => exact ⟨i, issueOperation_of_decodeOp hop ▸ h⟩
  | error e =>
    rw [issueOperation, decodeBytes, hop] at h
    cases h

/-- A host read that completes changes nothing. -/
theorem eq_of_hostRead_eq_next {reg : HostReg} (h : hostRead reg s = .next t) : t = s := by
  unfold hostRead at h
  cases hv : hostView s reg with
  | ok v => rw [hv] at h; cases h; rfl
  | error e => rw [hv] at h; cases h

/-- A host write of a byte of `BUF` that completes is a write inside the buffer. -/
theorem hostWriteBuf_eq_next (h : hostWriteBuf a v s = .next t) : a < 13 ∧ t = s.setBuf (s.buf.write a v) := by
  unfold hostWriteBuf at h
  split at h
  next ha => cases h; exact ⟨by simpa [bufIndexExists] using ha, rfl⟩
  next => cases h

theorem performEvent_inv {e : Event} (h : s.Inv) (ht : performEvent e s = .next t) : t.Inv := by
  cases e with
  | operation op =>
    obtain ⟨i, hi⟩ := issueOperation_eq_next ht
    exact exec_inv h hi
  | hostWriteCmd c => cases ht; exact { h with }
  | hostWriteBuf i v =>
    obtain ⟨hi, rfl⟩ := hostWriteBuf_eq_next ht
    exact inv_storeByte h hi
  | hostRead reg => rwa [eq_of_hostRead_eq_next ht]
  | receiverWriteRxq q => cases ht; exact { h with }
  | transmitterReadTxq => cases ht; exact h
  | reset strap => cases ht; exact invariantHoldsAfterReset strap s.matcher s.pending

/-- With nothing pending the block is idle (log 9). -/
theorem step_of_idle (h : s.pending = []) : step s = .next s := by
  rw [step, nextEvent, h]

/-- Settles O3: a step performs one event or none, and every event keeps the invariant, an operation among them. -/
theorem everyStepKeepsTheInvariant : Obligations.EveryStepKeepsTheInvariant := fun s t h ht => by
  cases hpending : s.pending with
  | nil =>
    rw [step_of_idle hpending] at ht
    cases ht
    exact h
  | cons e rest =>
    rw [step_of_pending hpending] at ht
    exact performEvent_inv (inv_setPending h rest) ht

end Sys2Proof.Proofs
end

section
/-! SUPPORT. What each operation leaves alone, register by register and byte by byte, and the statements about frames
settled from these (10_state.md sections 2 to 8, 20_memory.md sections 1, 4 and 5). -/

namespace Sys2Proof.Proofs

open Sys2Proof.Machine Sys2Proof.Laws Sys2Proof.Claims

variable {s t : State} {i : Instr} {a : Nat} {x : Byte}

/-! ## Registers -/

/-- The cascade writes `SUM`, `CSOK`, `ERR`, `FSM` and the five Command fields of `RES` alone (43_timing_decoder.md
R161 to R167). -/
theorem runCascade_frame (b : Nat → Byte) (s : State) :
    (runCascade b s).dsel = s.dsel ∧ (runCascade b s).matcher = s.matcher ∧ (runCascade b s).cmd = s.cmd ∧
    (runCascade b s).written.cmd = s.written.cmd ∧ (runCascade b s).rxq = s.rxq ∧
    (runCascade b s).pending = s.pending ∧ (runCascade b s).txq = s.txq ∧ (runCascade b s).pos = s.pos ∧
    (runCascade b s).res.ident = s.res.ident ∧ (runCascade b s).written.ident = s.written.ident ∧
    (runCascade b s).res.csum = s.res.csum ∧ (runCascade b s).written.csum = s.written.csum := by
  rcases runCascade_cases b s with ⟨_, _, _, e⟩ | ⟨_, _, e⟩ | ⟨_, _, e⟩ <;> rw [e] <;> simp [raiseReject]

/-- Settles O53: the one line of each operation's effect names the registers that it writes. -/
theorem registersAreWrittenOnlyByTheirWriters : Obligations.RegistersAreWrittenOnlyByTheirWriters := by
  intro i s t h
  have he := exec_effect h
  cases i with
  | pnew | pack | setid => rw [he]; simp
  | setpwr | setmode | setfan | setswing | settemp | getid | getpwr | getmode | getfan | getswing | gettemp | getcsum =>
    obtain ⟨_, -, rfl⟩ := he
    simp
  | unpack => obtain ⟨b, ⟨-, rfl⟩ | ⟨r, -, rfl⟩⟩ := he <;> simp
  | csumc | csumw | encode => obtain ⟨_, rfl⟩ := he; simp
  | csumv => obtain ⟨_, _, rfl⟩ := he; simp
  | demod => rw [he]; simp
  | validate => obtain ⟨b, rfl, -⟩ := he; simp [runCascade_frame]
  | decode => obtain ⟨rfl, -⟩ | ⟨-, b, rfl⟩ := he <;> simp [runCascade_frame]

/-- No operation changes the strap (10_state.md R11). -/
theorem exec_dsel (h : exec i s = .next t) : t.dsel = s.dsel :=
  (registersAreWrittenOnlyByTheirWriters i s t h).1

/-- Settles O12: the strap is no register that an operation writes, and of the outside parties only reset writes it. -/
theorem strapChangesOnlyAtReset : Obligations.StrapChangesOnlyAtReset := by
  refine ⟨rfl, rfl, fun i s t => exec_dsel, fun s t e rest hpending h => ?_⟩
  rw [step_of_pending hpending] at h
  cases e with
  | reset strap => cases h; exact ⟨fun d hd => Event.reset.inj hd, fun hno => absurd rfl (hno strap)⟩
  | operation op =>
    obtain ⟨i, hi⟩ := issueOperation_eq_next h
    exact ⟨nofun, fun _ => by rw [exec_dsel hi, State.setPending_dsel]⟩
  | hostWriteCmd c | receiverWriteRxq q | transmitterReadTxq => cases h; exact ⟨nofun, fun _ => rfl⟩
  | hostWriteBuf i v => obtain ⟨-, rfl⟩ := hostWriteBuf_eq_next h; exact ⟨nofun, fun _ => rfl⟩
  | hostRead reg => rw [eq_of_hostRead_eq_next h]; exact ⟨nofun, fun _ => rfl⟩

/-! ## Bytes of the buffer -/

/-- An index above 12 holds no value before an operation and none after it (20_memory.md R41). -/
theorem exec_buf_of_notMem_allBytes (ha : a ∉ allBytes) (hwf : s.buf.wf = true) (h : exec i s = .next t) :
    t.buf.read a = none ∧ s.buf.read a = none := by
  have hge : 13 ≤ a := by simpa [allBytes] using ha
  exact ⟨read_of_wf (exec_wf hwf h) hge, read_of_wf hwf hge⟩

/-- Settles O52: outside 0..12 nothing is ever written, and inside it each operation writes its own byte, all 13, or
none. -/
theorem operationsLeaveOtherBytesAlone : Obligations.OperationsLeaveOtherBytesAlone := by
  intro i s t a hwf h ha
  have he := exec_effect h
  cases i with
  | pnew | pack | demod | decode =>
    obtain ⟨ht, hs⟩ := exec_buf_of_notMem_allBytes ha hwf h
    rw [ht, hs]
  | setid => rw [he]; exact read_write_other _ _ (List.ne_of_not_mem_cons ha)
  | setpwr | setmode | setfan | setswing | settemp =>
    obtain ⟨_, -, rfl⟩ := he
    exact read_write_other _ _ (List.ne_of_not_mem_cons ha)
  | csumw => obtain ⟨_, rfl⟩ := he; exact read_write_other _ _ (List.ne_of_not_mem_cons ha)
  | getid | getpwr | getmode | getfan | getswing | gettemp | getcsum => obtain ⟨_, -, rfl⟩ := he; simp
  | unpack => obtain ⟨b, ⟨-, rfl⟩ | ⟨r, -, rfl⟩⟩ := he <;> simp
  | csumc | encode => obtain ⟨_, rfl⟩ := he; simp
  | csumv => obtain ⟨_, _, rfl⟩ := he; simp
  | validate => obtain ⟨b, rfl, -⟩ := he; rw [runCascade_buf]

/-- Settles O10: a canonical buffer lists no index above 12, every operation keeps it canonical, and the host's accesses
check the index first. -/
theorem bufferHasNoIndexAboveTwelve : Obligations.BufferHasNoIndexAboveTwelve := by
  refine ⟨fun i s t a hwf h ha => read_of_wf (exec_wf hwf h) ha,
    fun s rest a v ha => ⟨fun hwrite => ?_, fun hread => ?_⟩⟩
  · rw [step_of_pending hwrite]
    exact if_neg (by simpa [bufIndexExists] using ha)
  · rw [step_of_pending hread]
    exact hostRead_above ha

/-! ## Bits of a modified byte -/

/-- A mutator's byte after it, read back from the state it leaves. -/
theorem modify_read {g : Command → Byte → Byte} {y : Byte}
    (h : withCmd s (fun c => modifyByte a (g c) s) = .next t) (hx : s.buf.read a = some x)
    (hy : t.buf.read a = some y) : y = g s.cmd x := by
  obtain ⟨x', hx', rfl⟩ := modify_effect h
  obtain rfl : x' = x := Option.some.inj (hx'.symm.trans hx)
  rw [State.setBuf_buf, read_write_same] at hy
  exact (Option.some.inj hy).symm

/-- An inserted field that starts at bit 0. -/
theorem getLsbD_ins_zero {w k : Nat} (x : Byte) (v : BitVec w) (hk : k < 8) :
    (ins x 0 v).getLsbD k = if k < w then v.getLsbD k else x.getLsbD k := by
  simp [getLsbD_ins x 0 v k hk]

theorem getLsbD_putPower (d : Dialect) (power : Bool) (x : Byte) {k : Nat} (hk : k < 8) :
    (putPower d power x).getLsbD k = if k = 5 then byDialect d power (!power) else x.getLsbD k := by
  rw [putPower, getLsbD_ins x 5 _ k hk, powerBit_eq_byDialect]
  by_cases h5 : k = 5
  · subst h5
    cases d <;> simp [byDialect]
  · rw [if_neg (by omega), if_neg h5]

theorem getLsbD_putTemp (d : Dialect) (temp x : Byte) {k : Nat} (hk : k < 8) :
    (putTemp d temp x).getLsbD k = if 3 ≤ k then (storedTemp d temp).getLsbD (k - 3) else x.getLsbD k := by
  rw [putTemp, getLsbD_ins x 3 _ k hk, tempField_eq_storedTemp]
  simp [hk]

/-- Settles O22: each mutator inserts its value into its field, and an insertion is known bit by bit. -/
theorem mutatorsChangeOnlyTheirFieldsBits : Obligations.MutatorsChangeOnlyTheirFieldsBits := by
  intro s t x y k hk
  refine ⟨fun h hx hy => ?_, fun h hx hy => ?_, fun h hx hy => ?_, fun h hx hy => ?_, fun h hx hy => ?_⟩
  · rw [modify_read (g := fun c => putPower s.dsel c.power) h hx hy, getLsbD_putPower _ _ _ hk]
  · rw [modify_read (g := fun c => putMode c.mode) h hx hy, putMode, getLsbD_ins_zero _ _ hk]
  · rw [modify_read (g := fun c => putFan c.fan) h hx hy, putFan, getLsbD_ins_zero _ _ hk]
  · rw [modify_read (g := fun c => putSwing c.swing) h hx hy, putSwing, getLsbD_ins_zero _ _ hk]
  · rw [modify_read (g := fun c => putTemp s.dsel c.temp) h hx hy, getLsbD_putTemp _ _ _ hk]

end Sys2Proof.Proofs
end

section
/-! SUPPORT. The three ends of the cascade, each from its premises, and the statements about rejections and about a new
attempt settled from them (43_timing_decoder.md R161 to R167, 60_exceptions.md R190, R192). -/

namespace Sys2Proof.Proofs

open Sys2Proof.Machine Sys2Proof.Laws Sys2Proof.Claims

variable {s t : State} {i : Instr} {b : Nat → Byte} {r : Reason} {d : Dialect}

/-! ## The ends of the cascade -/

/-- The field checks fail with a reason of their own. -/
theorem firstFieldFailure_reason (h : firstFieldFailure d b = some r) :
    r = .identityMismatch ∨ ∃ f, r = .fieldInvalid f := by
  unfold firstFieldFailure at h
  split_ifs at h <;> cases h <;> simp

/-- A failed field check ends the cascade with its reason. -/
theorem runCascade_of_fieldFailure (h : firstFieldFailure s.dsel b = some r) : runCascade b s = raiseReject r s := by
  rcases runCascade_cases b s with ⟨r', hfail, -, e⟩ | ⟨hpass, -, -⟩ | ⟨hpass, -, -⟩
  · obtain rfl : r' = r := Option.some.inj (hfail.symm.trans h)
    exact e
  · exact absurd (h.symm.trans hpass) nofun
  · exact absurd (h.symm.trans hpass) nofun

/-- A wrong checksum ends the cascade after the comparison. -/
theorem runCascade_of_checksumMismatch (h : firstFieldFailure s.dsel b = none) (hsum : checksumOf s.dsel b ≠ b 12) :
    runCascade b s = raiseReject .checksumMismatch ((s.setSum (checksumOf s.dsel b)).setCsok false) := by
  rcases runCascade_cases b s with ⟨r', hfail, -, -⟩ | ⟨-, -, e⟩ | ⟨-, heq, -⟩
  · exact absurd (h.symm.trans hfail) nofun
  · exact e
  · exact absurd heq hsum

/-- A buffer that passes all five checks is accepted. -/
theorem runCascade_of_pass (h : firstFieldFailure s.dsel b = none) (hsum : checksumOf s.dsel b = b 12) :
    runCascade b s = ((((s.setSum (checksumOf s.dsel b)).setCsok true).setResCommand (commandOf s.dsel b)).setErr
      .none).setFsm .accepted := by
  rcases runCascade_cases b s with ⟨r', hfail, -, -⟩ | ⟨-, hne, -⟩ | ⟨-, -, e⟩
  · exact absurd (h.symm.trans hfail) nofun
  · exact absurd hsum hne
  · exact e

/-! ## Rejections (60_exceptions.md section 4) -/

/-- A cascade that rejects leaves a reason, and writes `SUM` and `CSOK` at most besides. -/
theorem runCascade_rejected (h : (runCascade b s).fsm = .rejected) :
    (runCascade b s).err ≠ .none ∧ (runCascade b s).res = s.res ∧
      (runCascade b s).written = { s.written with sum := (runCascade b s).written.sum } := by
  rcases runCascade_cases b s with ⟨r, -, hr, e⟩ | ⟨-, -, e⟩ | ⟨-, -, e⟩ <;> rw [e] at h ⊢
  · exact ⟨hr, rfl, rfl⟩
  · exact ⟨nofun, rfl, rfl⟩
  · exact absurd h nofun

/-- A demodulation that rejects has one of two reasons (43_timing_decoder.md R152 to R154). -/
theorem demodulate_rejected (h : (demodulate s).fsm = .rejected) :
    (demodulate s).err = .headerMismatch ∨ (demodulate s).err = .truncatedMessage := by
  rcases demodulate_cases s with ⟨-, e⟩ | ⟨_, _, _, _, -, -, -, -, -, -, e⟩ | ⟨_, _, _, -, -, -, -, e⟩ <;> rw [e] at h ⊢
  · exact .inl rfl
  · exact .inr rfl
  · exact absurd h nofun

theorem demodulate_rejected_err_ne_none (h : (demodulate s).fsm = .rejected) : (demodulate s).err ≠ .none := by
  rcases demodulate_rejected h with e | e <;> rw [e] <;> nofun

/-- Settles O55: a rejection comes from the demodulation, which writes no operand and no result, or from the cascade,
which then writes `SUM` and `CSOK` at most; `UNPACK` records a failure in `ERR` alone. -/
theorem rejectionsArePrecise : Obligations.RejectionsArePrecise := by
  refine ⟨fun i s t hi h hrejected => ?_, fun s t h herr => ?_⟩
  · have he := exec_effect h
    have hmem : i = .demod ∨ i = .validate ∨ i = .decode := by simpa using hi
    rcases hmem with rfl | rfl | rfl
    · obtain rfl : t = demodulate s := he
      exact ⟨demodulate_rejected_err_ne_none hrejected, by simp⟩
    · obtain ⟨b, rfl, -⟩ := he
      obtain ⟨herr, hres, hwritten⟩ := runCascade_rejected hrejected
      exact ⟨herr, hres, hwritten, by simp [runCascade_frame]⟩
    · obtain ⟨rfl, -⟩ | ⟨-, b, rfl⟩ := he
      · exact ⟨demodulate_rejected_err_ne_none hrejected, by simp⟩
      · obtain ⟨herr, hres, hwritten⟩ := runCascade_rejected hrejected
        exact ⟨herr, by simpa using hres, by simpa using hwritten, by simp [runCascade_frame]⟩
  · obtain ⟨b, ⟨-, rfl⟩ | ⟨r, -, rfl⟩⟩ := exec_effect h
    · exact absurd rfl herr
    · exact ⟨r, rfl⟩

/-- Demodulation sets `BUF`, `ERR`, `POS` and `FSM` before it looks at a pulse (43_timing_decoder.md R151). -/
theorem demodulate_afresh (s : State) (buf : Memory) (r : Reason) (n : Nat) (f : Fsm) :
    demodulate ((((s.setBuf buf).setErr r).setPos n).setFsm f) = demodulate s := rfl

/-- Settles O56: both operations act through demodulation alone, and that sets all four registers first. -/
theorem everyAttemptStartsAfresh : Obligations.EveryAttemptStartsAfresh := by
  rintro s i buf r n f (rfl | rfl)
  · simp only [exec, execDemod, demodulate_afresh]
  · simp only [exec, execDecode]
    rw [demodulate_afresh]

end Sys2Proof.Proofs
end

section
/-! SUPPORT. When an operation completes and what its results depend on: one lemma per shape of an operation's meaning,
and the statements about refusals and dependence settled from these (40_payload_codec.md R90, 10_state.md
section 11). -/

namespace Sys2Proof.Proofs

open Sys2Proof.Machine Sys2Proof.Laws Sys2Proof.Claims

variable {s s' t t' : State} {i : Instr} {idx : List Nat} {a : Nat}

/-! ## Completion (40_payload_codec.md R90) -/

/-- `o` is the outcome of an operation that needs `CMD`, if `cmd`, and the bytes of `idx`: it completes when they are
written and names a missing one otherwise. -/
def Needs (cmd : Bool) (idx : List Nat) (s : State) (o : Outcome) : Prop :=
  (((!cmd || s.written.cmd) && idx.all fun a => (s.buf.read a).isSome) = true → ∃ t, o = .next t) ∧
  (((!cmd || s.written.cmd) && idx.all fun a => (s.buf.read a).isSome) = false →
    (cmd = true ∧ s.written.cmd = false ∧ o = .refused .cmdHasNoValue) ∨
    ∃ a ∈ idx, s.buf.read a = none ∧ o = .refused (.bufByteHasNoValue a))

theorem needs_nothing (t : State) : Needs false [] s (.next t) := ⟨fun _ => ⟨t, rfl⟩, nofun⟩

theorem needs_withBytes {k : (Nat → Byte) → Outcome} (hk : ∀ b, ∃ t, k b = .next t) :
    Needs false idx s (withBytes idx s k) := by
  refine ⟨fun h => ?_, fun h => .inr ?_⟩
  · rw [withBytes_of_available (by simpa using h)]
    exact hk _
  · obtain ⟨a, ha, hnone⟩ : ∃ a ∈ idx, s.buf.read a = none := by simpa using h
    exact withBytes_of_missing ha hnone

theorem needs_withCmd {k : Command → Outcome} (hk : ∀ c, Needs false idx s (k c)) : Needs true idx s (withCmd s k) := by
  cases hc : s.written.cmd with
  | true => simpa [Needs, hc] using hk s.cmd
  | false => exact ⟨fun h => by simp [hc] at h, fun _ => .inl ⟨rfl, hc, withCmd_of_unwritten hc⟩⟩

/-- A field write of the Command needs `CMD` and its byte. -/
theorem needs_modify {g : Command → Byte → Byte} : Needs true [a] s (withCmd s fun c => modifyByte a (g c) s) :=
  needs_withCmd fun _ => needs_withBytes fun _ => ⟨_, rfl⟩

theorem needs_pack (s : State) : Needs true [] s (exec .pack s) := by
  cases hc : s.written.cmd with
  | true => exact ⟨fun _ => ⟨_, exec_pack hc⟩, fun h => by simp [hc] at h⟩
  | false =>
    rw [exec, execPack, withCmd_of_unwritten hc]
    exact ⟨fun h => by simp [hc] at h, fun _ => .inl ⟨rfl, hc, rfl⟩⟩

/-- Every operation needs the operands that its rule lists. -/
theorem needs_exec (i : Instr) (s : State) : Needs (readsCmd i) (readsBytes i) s (exec i s) := by
  cases i with
  | pnew | setid | demod => exact needs_nothing _
  | decode =>
    obtain ⟨t, ht, -⟩ := exec_decode_fsm s
    rw [ht]
    exact needs_nothing t
  | pack => exact needs_pack s
  | setpwr => exact needs_modify (g := fun c => putPower s.dsel c.power)
  | setmode => exact needs_modify (g := fun c => putMode c.mode)
  | setfan => exact needs_modify (g := fun c => putFan c.fan)
  | setswing => exact needs_modify (g := fun c => putSwing c.swing)
  | settemp => exact needs_modify (g := fun c => putTemp s.dsel c.temp)
  | unpack =>
    rw [exec, execUnpack]
    refine needs_withBytes fun b => ?_
    cases firstFieldFailure s.dsel b <;> exact ⟨_, rfl⟩
  | getid | getpwr | getmode | getfan | getswing | gettemp | getcsum | csumc | csumw | csumv | encode | validate =>
    simp only [exec, execGetid, execGetpwr, execGetmode, execGetfan, execGetswing, execGettemp, execGetcsum, execCsumc,
      execCsumw, execCsumv, execEncode, execValidate]
    exact needs_withBytes fun b => ⟨_, rfl⟩

/-- Settles O51: the operands of an operation are those that its meaning checks first. -/
theorem operationsCompleteExactlyWhenOperandsAreWritten :
    Obligations.OperationsCompleteExactlyWhenOperandsAreWritten :=
  needs_exec

/-! ## Dependence (10_state.md section 11) -/

/-- The two states agree in every operand and parameter. -/
structure SameOperands (s s' : State) : Prop where
  dsel : s'.dsel = s.dsel
  matcher : s'.matcher = s.matcher
  cmd : s'.cmd = s.cmd
  cmdWritten : s'.written.cmd = s.written.cmd
  buf : s'.buf = s.buf
  rxq : s'.rxq = s.rxq

/-- The two states agree in `BUF` and in every register that `i` wrote in coming to `t`. -/
def SameResults (i : Instr) (t t' : State) : Prop :=
  t'.buf = t.buf ∧
    (i = .encode → t'.txq = t.txq) ∧
    (i = .csumc ∨ i = .csumw ∨ comparesChecksum i t → t'.sum = t.sum ∧ t'.written.sum = t.written.sum) ∧
    (comparesChecksum i t → t'.csok = t.csok) ∧
    (i ∈ [.demod, .decode] → t'.pos = t.pos) ∧
    (i ∈ [.demod, .validate, .decode] → t'.fsm = t.fsm) ∧
    (i ∈ [.unpack, .demod, .validate, .decode] → t'.err = t.err) ∧
    (∀ f ∈ resFieldsWritten i t, resField t' f = resField t f)

/-- If the outcome `o` of `i` is a next state, then so is `o'`, with the same results. -/
def CarriesOver (i : Instr) (o o' : Outcome) : Prop :=
  ∀ t, o = .next t → ∃ t', o' = .next t' ∧ SameResults i t t'

theorem carriesOver_next (h : SameResults i t t') : CarriesOver i (.next t) (.next t') := fun u hu => by
  cases hu
  exact ⟨t', rfl, h⟩

theorem carriesOver_refused (r : Refusal) (o' : Outcome) : CarriesOver i (.refused r) o' := fun t ht => by cases ht

theorem carriesOver_withBytes {k k' : (Nat → Byte) → Outcome} (hbuf : s'.buf = s.buf)
    (hk : ∀ b, CarriesOver i (k b) (k' b)) : CarriesOver i (withBytes idx s k) (withBytes idx s' k') := by
  unfold withBytes
  rw [hbuf]
  split
  · exact carriesOver_refused _ _
  · exact hk _

theorem carriesOver_withCmd {k k' : Command → Outcome} (h : SameOperands s s') (hk : ∀ c, CarriesOver i (k c) (k' c)) :
    CarriesOver i (withCmd s k) (withCmd s' k') := by
  unfold withCmd
  rw [h.cmdWritten, h.cmd]
  split
  · exact hk _
  · exact carriesOver_refused _ _

/-- The operations that write `BUF` and no other register. -/
def bufferBuilders : List Instr := [.pnew, .pack, .setid, .setpwr, .setmode, .setfan, .setswing, .settemp]

theorem sameResults_of_buf (hbuf : t'.buf = t.buf) (hi : i ∈ bufferBuilders) : SameResults i t t' := by
  fin_cases hi <;> simp [SameResults, comparesChecksum, resFieldsWritten, hbuf]

theorem carriesOver_modify {g : Command → Byte → Byte} (h : SameOperands s s')
    (hi : i ∈ bufferBuilders) :
    CarriesOver i (withCmd s fun c => modifyByte a (g c) s) (withCmd s' fun c => modifyByte a (g c) s') := by
  refine carriesOver_withCmd h fun c => ?_
  simp only [modifyByte]
  refine carriesOver_withBytes h.buf fun b => carriesOver_next (sameResults_of_buf ?_ hi)
  rw [State.setBuf_buf, State.setBuf_buf, h.buf]

theorem packBuf_congr (h : SameOperands s s') : packBuf s' = packBuf s := by
  rw [packBuf, packBuf, h.dsel, h.cmd]

theorem carriesOver_pack (h : SameOperands s s') : CarriesOver .pack (exec .pack s) (exec .pack s') := fun t ht => by
  obtain ⟨hc, rfl⟩ := exec_pack_inv ht
  refine ⟨_, exec_pack (h.cmdWritten.trans hc), sameResults_of_buf ?_ (by decide)⟩
  rw [State.setBuf_buf, State.setBuf_buf, packBuf_congr h]

/-- What the cascade leaves depends on the strap and the bytes it looks at. -/
theorem sameResults_runCascade (b : Nat → Byte) (hi : i = .validate ∨ i = .decode) (hdsel : s'.dsel = s.dsel)
    (hbuf : s'.buf = s.buf) (hpos : i = .decode → s'.pos = s.pos) :
    SameResults i (runCascade b s) (runCascade b s') := by
  cases hfail : firstFieldFailure s.dsel b with
  | some r =>
    rw [runCascade_of_fieldFailure hfail, runCascade_of_fieldFailure (hdsel.symm ▸ hfail)]
    rcases hi with rfl | rfl <;> obtain rfl | ⟨f, rfl⟩ := firstFieldFailure_reason hfail <;>
      simp [SameResults, raiseReject, comparesChecksum, resFieldsWritten, hbuf, hpos]
  | none =>
    by_cases hsum : checksumOf s.dsel b = b 12
    · rw [runCascade_of_pass hfail hsum, runCascade_of_pass (hdsel.symm ▸ hfail) (hdsel.symm ▸ hsum)]
      rcases hi with rfl | rfl <;> simp [SameResults, resFieldsWritten, resField, hbuf, hdsel, hpos]
    · rw [runCascade_of_checksumMismatch hfail hsum,
        runCascade_of_checksumMismatch (hdsel.symm ▸ hfail) (hdsel.symm ▸ hsum)]
      rcases hi with rfl | rfl <;> simp [SameResults, raiseReject, resFieldsWritten, hbuf, hdsel, hpos]

/-- What demodulation writes depends on the strap, the matching table and `RXQ`. -/
theorem demodulate_congr (h : SameOperands s s') :
    (demodulate s').buf = (demodulate s).buf ∧ (demodulate s').pos = (demodulate s).pos ∧
      (demodulate s').fsm = (demodulate s).fsm ∧ (demodulate s').err = (demodulate s).err := by
  unfold demodulate
  rw [h.dsel, h.matcher, h.rxq]
  cases runDecoder s.dsel s.matcher s.rxq 105 (startDecoder s.dsel) <;> exact ⟨rfl, rfl, rfl, rfl⟩

theorem sameResults_demodulate (h : SameOperands s s') (hi : i = .demod ∨ i = .decode)
    (hf : i = .decode → (demodulate s).fsm = .rejected) : SameResults i (demodulate s) (demodulate s') := by
  obtain ⟨hbuf, hpos, hfsm, herr⟩ := demodulate_congr h
  rcases hi with rfl | rfl
  · simp [SameResults, comparesChecksum, resFieldsWritten, hbuf, hpos, hfsm, herr]
  · have hrejected := hf rfl
    rcases demodulate_rejected hrejected with e | e <;>
      simp [SameResults, comparesChecksum, resFieldsWritten, hbuf, hpos, hfsm, herr, hrejected, e]

theorem carriesOver_decode (h : SameOperands s s') : CarriesOver .decode (exec .decode s) (exec .decode s') := by
  obtain ⟨hbuf, hpos, hfsm, -⟩ := demodulate_congr h
  have hdsel : (demodulate s').dsel = (demodulate s).dsel := by simpa using h.dsel
  simp only [exec, execDecode, hfsm]
  rcases demodulate_fsm s with hf | hf
  · rw [if_pos hf, if_pos hf]
    exact carriesOver_withBytes hbuf fun b =>
      carriesOver_next (sameResults_runCascade b (.inr rfl) hdsel hbuf fun _ => hpos)
  · rw [if_neg (by simp [hf]), if_neg (by simp [hf])]
    exact carriesOver_next (sameResults_demodulate h (.inr rfl) fun _ => hf)

theorem carriesOver_unpack (h : SameOperands s s') : CarriesOver .unpack (exec .unpack s) (exec .unpack s') := by
  rw [exec, exec, execUnpack, execUnpack, h.dsel]
  refine carriesOver_withBytes h.buf fun b => ?_
  cases hfail : firstFieldFailure s.dsel b with
  | some r =>
    refine carriesOver_next ?_
    obtain rfl | ⟨f, rfl⟩ := firstFieldFailure_reason hfail <;>
      simp [SameResults, raiseUnpackReject, comparesChecksum, resFieldsWritten, h.buf]
  | none => exact carriesOver_next (by simp [SameResults, comparesChecksum, resFieldsWritten, resField, h.buf])

theorem carriesOver_exec (h : SameOperands s s') (i : Instr) : CarriesOver i (exec i s) (exec i s') := by
  cases i with
  | pnew | setid =>
    refine carriesOver_next (sameResults_of_buf ?_ (by decide))
    simp [fillBuffer, writeByte, h.dsel, h.buf]
  | pack => exact carriesOver_pack h
  | setpwr =>
    rw [exec, exec, execSetpwr, execSetpwr, h.dsel]
    exact carriesOver_modify (g := fun c => putPower s.dsel c.power) h (by decide)
  | setmode => exact carriesOver_modify (g := fun c => putMode c.mode) h (by decide)
  | setfan => exact carriesOver_modify (g := fun c => putFan c.fan) h (by decide)
  | setswing => exact carriesOver_modify (g := fun c => putSwing c.swing) h (by decide)
  | settemp =>
    rw [exec, exec, execSettemp, execSettemp, h.dsel]
    exact carriesOver_modify (g := fun c => putTemp s.dsel c.temp) h (by decide)
  | unpack => exact carriesOver_unpack h
  | getid | getpwr | getmode | getfan | getswing | gettemp | getcsum =>
    simp only [exec, execGetid, execGetpwr, execGetmode, execGetfan, execGetswing, execGettemp, execGetcsum]
    refine carriesOver_withBytes h.buf fun b => carriesOver_next ?_
    simp [SameResults, comparesChecksum, resFieldsWritten, resField, h.buf, h.dsel]
  | csumc | csumw | csumv | encode =>
    simp only [exec, execCsumc, execCsumw, execCsumv, execEncode]
    refine carriesOver_withBytes h.buf fun b => carriesOver_next ?_
    simp [SameResults, compareChecksum, comparesChecksum, writeByte, resFieldsWritten, h.buf, h.dsel]
  | demod => exact carriesOver_next (sameResults_demodulate h (.inl rfl) nofun)
  | validate =>
    simp only [exec, execValidate]
    exact carriesOver_withBytes h.buf fun b => carriesOver_next (sameResults_runCascade b (.inl rfl) h.dsel h.buf nofun)
  | decode => exact carriesOver_decode h

/-- Settles O57: an operation looks at the state through its operands alone, and each register that it writes takes a
value computed from them. -/
theorem resultsDependOnlyOnOperands : Obligations.ResultsDependOnlyOnOperands :=
  fun i _ _ t hdsel hmatcher hcmd hwritten hbuf hrxq h =>
    carriesOver_exec ⟨hdsel, hmatcher, hcmd, hwritten, hbuf, hrxq⟩ i t h

end Sys2Proof.Proofs
end

section
/-! SUPPORT. The six field mutators as updates of one byte each, that any two of them commute, and the statement about
their order (20_memory.md R48, 40_payload_codec.md R92 to R98). -/

namespace Sys2Proof.Proofs

open Sys2Proof.Machine Sys2Proof.Laws

variable {s : State} {i j : Instr} {m : Memory} {a b : Nat} {f : Byte → Byte}

/-! ## An update of one byte -/

/-- `BUF[a] <- f(BUF[a])`, on a byte that is written or whose old value plays no part. -/
def updateByte (m : Memory) (a : Nat) (f : Byte → Byte) : Memory := m.write a (f ((m.read a).getD 0))

theorem read_updateByte (m : Memory) (a b : Nat) (f : Byte → Byte) :
    (updateByte m a f).read b = if b = a then some (f ((m.read a).getD 0)) else m.read b :=
  read_write m a b _

theorem wf_updateByte (ha : a < 13) (h : m.wf = true) : (updateByte m a f).wf = true :=
  wf_write _ ha h

theorem updateByte_updateByte (m : Memory) (a : Nat) (f g : Byte → Byte) :
    updateByte (updateByte m a g) a f = updateByte m a fun x => f (g x) := by
  simp [updateByte, write_write]

/-- Updates of two bytes commute, and so do two updates of one byte whose functions commute. -/
theorem updateByte_comm {g : Byte → Byte} (h : m.wf = true) (ha : a < 13) (hb : b < 13)
    (hfg : a = b → ∀ x, f (g x) = g (f x)) :
    updateByte (updateByte m b g) a f = updateByte (updateByte m a f) b g := by
  by_cases hab : a = b
  · subst hab
    simp only [updateByte_updateByte, hfg rfl]
  · refine eq_of_read_eq (wf_updateByte ha (wf_updateByte hb h)) (wf_updateByte hb (wf_updateByte ha h)) fun k => ?_
    simp only [read_updateByte, if_neg hab, if_neg (Ne.symm hab)]
    by_cases hka : k = a
    · rw [if_pos hka, if_neg (by omega), if_pos hka]
    · rw [if_neg hka, if_neg hka]

/-! ## The mutators -/

/-- The six field mutators, in the order of `PACK` (40_payload_codec.md R98). -/
def mutators : List Instr := [.setid, .setpwr, .setmode, .setfan, .setswing, .settemp]

/-- The byte that a mutator updates. -/
def mutatedByte (i : Instr) : Nat := (storesTo i).headD 0

/-- The update that a mutator makes to its byte. -/
def mutation (d : Dialect) (c : Command) : Instr → Byte → Byte
  | .setid => fun _ => (cfg d).ident
  | .setpwr => putPower d c.power
  | .setmode => putMode c.mode
  | .setfan => putFan c.fan
  | .setswing => putSwing c.swing
  | .settemp => putTemp d c.temp
  | _ => id

/-- The state after a mutator. -/
def mutated (i : Instr) (s : State) : State :=
  s.setBuf (updateByte s.buf (mutatedByte i) (mutation s.dsel s.cmd i))

/-- Every mutator can run: `CMD` is written, the buffer canonical, and the bytes that mutators read are written. -/
structure MutatorsReady (s : State) : Prop where
  cmdWritten : s.written.cmd = true
  bufWf : s.buf.wf = true
  bytesWritten : ∀ a ∈ [1, 4, 6, 9], (s.buf.read a).isSome

theorem mutatedByte_lt (hi : i ∈ mutators) : mutatedByte i < 13 := by
  fin_cases hi <;> decide

theorem exec_mutator (h : MutatorsReady s) (hi : i ∈ mutators) : exec i s = .next (mutated i s) := by
  have hread (a : Nat) (ha : a ∈ [1, 4, 6, 9]) : s.buf.read a = some ((s.buf.read a).getD 0) := by
    obtain ⟨x, hx⟩ := Option.isSome_iff_exists.mp (h.bytesWritten a ha)
    rw [hx, Option.getD_some]
  fin_cases hi
  · rfl
  · exact exec_setpwr_of_read h.cmdWritten (hread 9 (by decide))
  · exact exec_setmode_of_read h.cmdWritten (hread 6 (by decide))
  · exact exec_setfan_of_read h.cmdWritten (hread 4 (by decide))
  · exact exec_setswing_of_read h.cmdWritten (hread 1 (by decide))
  · exact exec_settemp_of_read h.cmdWritten (hread 1 (by decide))

theorem mutatorsReady_mutated (h : MutatorsReady s) (hi : i ∈ mutators) : MutatorsReady (mutated i s) where
  cmdWritten := h.cmdWritten
  bufWf := wf_updateByte (mutatedByte_lt hi) h.bufWf
  bytesWritten a ha := isSome_read_write (h.bytesWritten a ha)

/-- The swing and the temperature share a byte and no bit of it (20_memory.md R46). -/
theorem putSwing_putTemp (d : Dialect) (v : BitVec 3) (temp x : Byte) :
    putSwing v (putTemp d temp x) = putTemp d temp (putSwing v x) :=
  byte_eq_of_bits fun k hk => by
    simp only [putSwing, getLsbD_ins_zero _ _ hk, getLsbD_putTemp _ _ _ hk]
    by_cases h3 : 3 ≤ k
    · rw [if_neg (by omega), if_pos h3, if_pos h3]
    · rw [if_neg h3, if_neg h3]

/-- No other two mutators share a byte. -/
theorem eq_or_swingTemp_of_mutatedByte_eq : ∀ i ∈ mutators, ∀ j ∈ mutators, mutatedByte i = mutatedByte j →
    i = j ∨ (i = .setswing ∧ j = .settemp) ∨ (i = .settemp ∧ j = .setswing) := by
  decide

theorem mutation_comm (d : Dialect) (c : Command) (hi : i ∈ mutators) (hj : j ∈ mutators)
    (hbyte : mutatedByte i = mutatedByte j) (x : Byte) :
    mutation d c i (mutation d c j x) = mutation d c j (mutation d c i x) := by
  obtain rfl | ⟨rfl, rfl⟩ | ⟨rfl, rfl⟩ := eq_or_swingTemp_of_mutatedByte_eq i hi j hj hbyte
  · rfl
  · exact putSwing_putTemp d c.swing c.temp x
  · exact (putSwing_putTemp d c.swing c.temp x).symm

theorem mutated_comm (h : MutatorsReady s) (hi : i ∈ mutators) (hj : j ∈ mutators) :
    mutated i (mutated j s) = mutated j (mutated i s) :=
  congrArg s.setBuf <| updateByte_comm h.bufWf (mutatedByte_lt hi) (mutatedByte_lt hj)
    (mutation_comm s.dsel s.cmd hi hj)

/-! ## Sequences of mutators -/

theorem runOps_mutators_next {l : List Instr} (h : MutatorsReady s) (hl : ∀ i ∈ l, i ∈ mutators) :
    ∃ t, runOps l s = .next t := by
  induction l generalizing s with
  | nil => exact ⟨s, rfl⟩
  | cons i l ih =>
    obtain ⟨hi, hl⟩ := List.forall_mem_cons.mp hl
    rw [runOps_cons_of_next (exec_mutator h hi)]
    exact ih (mutatorsReady_mutated h hi) hl

theorem runOps_perm {l l' : List Instr} (hperm : l.Perm l') (h : MutatorsReady s) (hl : ∀ i ∈ l, i ∈ mutators) :
    runOps l s = runOps l' s := by
  induction hperm generalizing s with
  | nil => rfl
  | cons i _ ih =>
    obtain ⟨hi, hl⟩ := List.forall_mem_cons.mp hl
    rw [runOps_cons_of_next (exec_mutator h hi), runOps_cons_of_next (exec_mutator h hi)]
    exact ih (mutatorsReady_mutated h hi) hl
  | swap i j l =>
    obtain ⟨hj, hi, hl⟩ : j ∈ mutators ∧ i ∈ mutators ∧ ∀ k ∈ l, k ∈ mutators := by simpa using hl
    rw [runOps_cons_of_next (exec_mutator h hj), runOps_cons_of_next (exec_mutator h hi),
      runOps_cons_of_next (exec_mutator (mutatorsReady_mutated h hj) hi),
      runOps_cons_of_next (exec_mutator (mutatorsReady_mutated h hi) hj), mutated_comm h hi hj]
  | trans hperm _ ih ih' => rw [ih h hl, ih' h fun i hi => hl i (hperm.mem_iff.mpr hi)]

/-- Settles O23: any two mutators commute on a ready state and keep it ready, so a permutation changes nothing. -/
theorem mutatorOrderDoesNotMatter : Obligations.MutatorOrderDoesNotMatter := by
  intro l s hperm hcmd hwf hbytes
  have hready : MutatorsReady s := ⟨hcmd, hwf, hbytes⟩
  have hl : ∀ i ∈ l, i ∈ mutators := fun i hi => hperm.mem_iff.mp hi
  obtain ⟨t, ht⟩ := runOps_mutators_next hready hl
  exact ⟨t, ht, (runOps_perm hperm hready hl).symm.trans ht⟩

end Sys2Proof.Proofs
end

section
/-! SUPPORT. What the fields of a packed buffer read back as, the checksum of a buffer with one byte changed, and the
statements about `UNPACK` after `PACK`, finalized buffers and the buffers that `VALIDATE` accepts
(40_payload_codec.md R108, 41_checksum.md R134, R135, 43_timing_decoder.md R171). -/

namespace Sys2Proof.Proofs

open Sys2Proof.Machine Sys2Proof.Laws Sys2Proof.Claims

variable {s t : State} {d : Dialect} {c : Command} {b : Nat → Byte} {l : List Byte}

/-! ## Reading a packed field back -/

theorem powerOf_putPower (d : Dialect) (power : Bool) (x : Byte) : powerOf d (putPower d power x) = power := by
  rw [powerOf_eq_byDialect, getLsbD_putPower d power x (by decide)]
  cases d <;> simp [byDialect]

theorem modeOf_putMode (v : BitVec 3) (x : Byte) : modeOf (putMode v x) = v := ext_ins x 0 v (by decide)

theorem fanOf_putFan (v : BitVec 4) (x : Byte) : fanOf (putFan v x) = v := ext_ins x 0 v (by decide)

theorem swingOf_putSwing (v : BitVec 3) (x : Byte) : swingOf (putSwing v x) = v := ext_ins x 0 v (by decide)

/-- The temperature field leaves the swing field alone. -/
theorem swingOf_putTemp (d : Dialect) (temp x : Byte) : swingOf (putTemp d temp x) = swingOf x :=
  ext_ins_disjoint x 3 (tempField d temp) 0 3 (by decide) (.inl (by decide))

/-- The two formulas of a dialect are inverse on clamped temperatures, whose stored values fit in 5 bits
(10_state.md R12). -/
theorem tdec_tenc_mod {n : Nat} (hlow : 16 ≤ n) (hhigh : n ≤ 32) : tdec d (tenc d n % 2 ^ 5) = n := by
  cases d <;> simp only [tdec, tenc] <;> omega

/-- A stored temperature reads back clamped (30_encoding.md R63). -/
theorem tempOf_putTemp (d : Dialect) (temp x : Byte) :
    tempOf d (putTemp d temp x) = BitVec.ofNat 8 (max 16 (min 32 temp.toNat)) := by
  rw [tempOf, putTemp, ext_ins x 3 _ (by decide), tempField, BitVec.toNat_ofNat, clampT_eq_max_min,
    tdec_tenc_mod (by omega) (by omega)]

/-- A Command as it comes back from the Payload: its temperature clamped. -/
def clamped (c : Command) : Command := { c with temp := BitVec.ofNat 8 (max 16 (min 32 c.temp.toNat)) }

theorem commandOf_packedByte (d : Dialect) (c : Command) : commandOf d (packedByte d c) = clamped c := by
  simp only [commandOf, clamped, packedByte, powerByte, modeByte, fanByte, swingTempByte, powerOf_putPower,
    modeOf_putMode, fanOf_putFan, swingOf_putTemp, swingOf_putSwing, tempOf_putTemp]

theorem firstFieldFailure_packedByte (h : Command.legalEnums c = true) :
    firstFieldFailure d (packedByte d c) = none := by
  obtain ⟨⟨hmode, hswing⟩, hfan⟩ : (modeLegal c.mode = true ∧ swingLegal c.swing = true) ∧ fanLegal c.fan = true := by
    simpa [Command.legalEnums] using h
  simp [firstFieldFailure, packedByte, identByte, modeByte, fanByte, swingTempByte, modeOf_putMode, fanOf_putFan,
    swingOf_putTemp, swingOf_putSwing, hmode, hswing, hfan]

/-- A legal Command is its own clamped one (10_state.md R14). -/
theorem clamped_of_legal (h : Command.legal c = true) : clamped c = c := by
  obtain ⟨⟨-, hlow⟩, hhigh⟩ : (Command.legalEnums c = true ∧ 16 ≤ c.temp.toNat) ∧ c.temp.toNat ≤ 32 := by
    simpa [Command.legal] using h
  rw [clamped, Nat.min_eq_right hhigh, Nat.max_eq_right hlow, BitVec.ofNat_toNat, BitVec.setWidth_eq]

theorem legalEnums_of_legal (h : Command.legal c = true) : Command.legalEnums c = true := by
  simp only [Command.legal, Bool.and_eq_true] at h
  exact h.1.1

/-- Byte 12 plays no part in the field checks and in the Command. -/
theorem firstFieldFailure_finalizedByte (d : Dialect) (c : Command) :
    firstFieldFailure d (finalizedByte d c) = firstFieldFailure d (packedByte d c) :=
  firstFieldFailure_congr fun _ ha => Function.update_of_ne (ne_of_mem_of_not_mem ha (by decide)) ..

theorem commandOf_finalizedByte (d : Dialect) (c : Command) : commandOf d (finalizedByte d c) = clamped c := by
  rw [← commandOf_packedByte]
  exact commandOf_congr fun _ ha => Function.update_of_ne (ne_of_mem_of_not_mem ha (by decide)) ..

/-- Byte 12 of the finalized bytes is their own checksum (41_checksum.md R135). -/
theorem checksumOf_finalizedByte (d : Dialect) (c : Command) :
    checksumOf d (finalizedByte d c) = finalizedByte d c 12 := by
  rw [finalizedByte, Function.update_self]
  exact checksumOf_congr fun a ha => Function.update_of_ne (Nat.ne_of_lt ha) ..

/-! ## `UNPACK` after `PACK` (40_payload_codec.md R108) -/

/-- The packed buffer. -/
theorem bufferHolds_packed (s : State) :
    bufferHolds (s.setBuf ((packBuf s).write 12 0)) (packedByte s.dsel s.cmd) :=
  fun _ hi => read_packBuf_write hi

/-- `CSUMW` on a whole buffer puts the checksum in byte 12. -/
theorem exec_csumw_of_bufferHolds (h : bufferHolds s b) :
    ∃ t, exec .csumw s = .next t ∧ bufferHolds t (Function.update b 12 (checksumOf s.dsel b)) ∧ t.dsel = s.dsel :=
  ⟨_, exec_csumw_of_bytesHeld (summedBytesHeld_of_bufferHolds h),
    bufferHolds_write (s := s.setSum (checksumOf s.dsel b)) h 12 _, rfl⟩

/-- `UNPACK` of a buffer that passes the field checks. -/
theorem exec_unpack_of_pass (h : bufferHolds t b) (hpass : firstFieldFailure t.dsel b = none) :
    exec .unpack t = .next ((t.setResCommand (commandOf t.dsel b)).setErr .none) := by
  have hbytes : bytesHeld t [0, 1, 4, 6, 9] b := fun a ha => h a ((by decide : ∀ a ∈ [0, 1, 4, 6, 9], a < 13) a ha)
  rw [unpackReportsOrUnpacks t b hbytes, ← firstFieldFailure_eq_fieldFailure, hpass, ← commandOf_eq_fieldsOf]

/-- Settles O27: the packed fields read back as the clamped Command, and the checksum in byte 12 is no field of it. -/
theorem unpackInvertsPack : Obligations.UnpackInvertsPack := by
  intro s l hcmd hlegal hl
  have hpass : firstFieldFailure s.dsel (packedByte s.dsel s.cmd) = none := firstFieldFailure_packedByte hlegal
  have hpacked := bufferHolds_packed s
  rcases hl with rfl | rfl <;> rw [runOps_cons_of_next (exec_pack hcmd)]
  · rw [runOps_cons_of_next (exec_unpack_of_pass hpacked hpass)]
    exact ⟨_, rfl, rfl, commandOf_packedByte s.dsel s.cmd⟩
  · obtain ⟨u, hu, hfinalized, hdsel⟩ := exec_csumw_of_bufferHolds hpacked
    rw [State.setBuf_dsel] at hfinalized hdsel
    have hpassed : firstFieldFailure u.dsel (finalizedByte s.dsel s.cmd) = none := by
      rw [hdsel, firstFieldFailure_finalizedByte, hpass]
    rw [runOps_cons_of_next hu, runOps_cons_of_next (exec_unpack_of_pass hfinalized hpassed)]
    refine ⟨_, rfl, rfl, ?_⟩
    rw [hdsel]
    exact commandOf_finalizedByte s.dsel s.cmd

/-! ## The checksum (41_checksum.md R134, R135) -/

/-- Settles O32: `CSUMW` stores the sum of the twelve bytes that it leaves as they are, and `CSUMV` compares the same
sum with byte 12. -/
theorem csumwFinalizesTheBuffer : Obligations.CsumwFinalizesTheBuffer := by
  refine ⟨fun s t b h hb => ?_, fun s b hb => ⟨_, csumvComparesTheChecksum s b hb, ?_⟩⟩
  · obtain ⟨v, ht⟩ : ∃ v, t = (s.setSum v).setBuf (s.buf.write 12 v) := exec_effect h
    have hread (a : Nat) : t.buf.read a = if a = 12 then some v else s.buf.read a := by
      rw [ht, State.setBuf_buf, read_write]
    have hsummed : bytesHeld s summedBytes b := fun a ha => by
      have ha12 : a < 12 := List.mem_range.mp ha
      rw [← hb a (by omega), hread, if_neg (by omega)]
    rw [exec_csumw_of_bytesHeld hsummed, checksumOf_eq_bufferSum] at h
    cases h
    simpa [eq_comm] using hb 12 (by decide)
  · simp [eq_comm]

/-- Replacing one summed byte changes the sum by the difference of the bytes. -/
theorem sumBytes_set {i : Nat} {x : Byte} (seed y : Byte) (hx : l[i]? = some x) :
    sumBytes seed (l.set i y) + x = sumBytes seed l + y := by
  induction l generalizing seed i with
  | nil => simp at hx
  | cons z l ih =>
    cases i with
    | zero =>
      obtain rfl : z = x := by simpa using hx
      calc sumBytes seed (y :: l) + z
        _ = sumBytes seed l + y + z := congrArg (· + z) (sumBytes_add seed y l)
        _ = sumBytes seed l + z + y := by ring
        _ = sumBytes seed (z :: l) + y := congrArg (· + y) (sumBytes_add seed z l).symm
    | succ i => exact ih (seed + z) (by simpa using hx)

theorem flipBit_ne (x : Byte) {k : Nat} (hk : k < 8) : x ^^^ (1#8 <<< k) ≠ x := by
  intro h
  have hbit := congrArg (BitVec.getLsbD · k) h
  simp [hk] at hbit

/-- Settles O34: the sum changes by the difference of the flipped byte and the old one, and that is not 0. -/
theorem singleBitFlipChangesTheChecksum : Obligations.SingleBitFlipChangesTheChecksum := by
  intro l seed x i k hi hk hx heq
  have hx' : l.dropLast[i]? = some x := by rw [List.getElem?_dropLast, if_pos (by omega), hx]
  have hset := sumBytes_set seed (x ^^^ (1#8 <<< k)) hx'
  rw [compute, compute, List.dropLast_eq_take, List.length_set, List.take_set, ← List.dropLast_eq_take] at heq
  rw [heq, BitVec.add_right_inj] at hset
  exact flipBit_ne x hk hset.symm

/-! ## The accepted buffers (43_timing_decoder.md R171) -/

theorem fieldFailure_eq_none_iff : fieldFailure d b = none ↔
    b 0 = byDialect d 0xC3 0x3C ∧ ext (b 6) 0 3 ∈ [0x1#3, 0x5#3, 0x6#3, 0x7#3] ∧ ext (b 1) 0 3 ∈ [0x0#3, 0x7#3] ∧
      ext (b 4) 0 4 ∈ [0x5#4, 0x9#4, 0xB#4, 0xD#4] := by
  unfold fieldFailure
  split_ifs <;> simp_all

theorem runCascade_accepted_iff : (runCascade b s).fsm = .accepted ↔
    firstFieldFailure s.dsel b = none ∧ checksumOf s.dsel b = b 12 := by
  rcases runCascade_cases b s with ⟨r, hfail, -, e⟩ | ⟨-, hsum, e⟩ | ⟨hpass, hsum, e⟩ <;> rw [e]
  · simp [raiseReject, hfail]
  · simp [raiseReject, hsum]
  · simp [hpass, hsum]

/-- Settles O43: the cascade accepts when all five checks pass, and they look at nothing else. -/
theorem validateAcceptsExactlyTheLegalBuffers : Obligations.ValidateAcceptsExactlyTheLegalBuffers := by
  intro s t b hb h
  rw [exec_validate_of_bufferHolds hb] at h
  cases h
  rw [runCascade_accepted_iff, firstFieldFailure_eq_fieldFailure, fieldFailure_eq_none_iff, checksumOf_eq_bufferSum,
    eq_comm (a := bufferSum s.dsel b)]
  simp only [List.mem_cons, List.not_mem_nil, or_false, and_assoc]
  exact Iff.rfl

end Sys2Proof.Proofs
end

section
/-! SUPPORT. A frame as the image of its buffer's bits, and the statements that frames differ and about their air time
(42_timing_encoder.md R148, 70_reset_and_hazards.md R230). -/

namespace Sys2Proof.Proofs

open Sys2Proof.Machine Sys2Proof.Laws Sys2Proof.Claims

variable {d : Dialect} {b b' : Nat → Byte}

theorem symbolPulse_injective (d : Dialect) : Function.Injective (symbolPulse d) := by
  intro v w h
  cases d <;> revert v w <;> decide

/-- Bytes that agree in their 104 wire bits are the same. -/
theorem eq_of_wireBit_eq (h : ∀ n < 104, wireBit b n = wireBit b' n) : ∀ i < 13, b i = b' i := fun i hi =>
  byte_eq_of_bits fun k hk => by
    have hbit := h (8 * i + k) (by omega)
    rwa [wireBit, wireBit, show (8 * i + k) / 8 = i by omega, show (8 * i + k) % 8 = k by omega] at hbit

/-- Settles O36: pulse `n + 1` of the frame says bit `n` of the buffer. -/
theorem framesOfDifferentBuffersDiffer : Obligations.FramesOfDifferentBuffersDiffer := fun d b b' h =>
  eq_of_wireBit_eq fun n hn => by
    have hpulse : some (symbolPulse d (wireBit b n)) = some (symbolPulse d (wireBit b' n)) := by
      rw [← encodeFrame_succ d b hn, ← encodeFrame_succ d b' hn, h]
    exact symbolPulse_injective d (Option.some.inj hpulse)

theorem airTime_append (p q : List Pulse) : airTime (p ++ q) = airTime p + airTime q := by
  simp [airTime]

/-- The air time of symbols of which one kind takes `x` and the other `y`. -/
theorem airTime_map_symbolPulse {x y : Nat} (f : Nat → Bool) (hx : airTime [symbolPulse d true] = x)
    (hy : airTime [symbolPulse d false] = y) (l : List Nat) :
    airTime (l.map fun n => symbolPulse d (f n)) = x * (l.filter f).length + y * (l.length - (l.filter f).length) := by
  induction l with
  | nil => rfl
  | cons n l ih =>
    have hle : (l.filter f).length ≤ l.length := List.length_filter_le f l
    rw [List.map_cons, ← List.singleton_append, airTime_append, ih, List.length_cons]
    cases hn : f n
    · rw [List.filter_cons_of_neg (by simp [hn]), hy, Nat.sub_add_comm hle]
      ring
    · rw [List.filter_cons_of_pos hn, hx, List.length_cons, Nat.add_sub_add_right]
      ring

/-- The air time of a frame: its header, its symbols and its trailer. -/
theorem airTime_encodeFrame {x y : Nat} (b : Nat → Byte) (hx : airTime [symbolPulse d true] = x)
    (hy : airTime [symbolPulse d false] = y) :
    airTime (encodeFrame d b) = airTime [headerPulse d] + (x * ((List.range 104).filter (wireBit b)).length +
      y * (104 - ((List.range 104).filter (wireBit b)).length)) + airTime (trailerPulses d) := by
  rw [encodeFrame, airTime_append, airTime_append, airTime_map_symbolPulse (wireBit b) hx hy, List.length_range]

/-- The number of one bits is at most the number of bits. -/
theorem length_oneBits_le (b : Nat → Byte) : ((List.range 104).filter (wireBit b)).length ≤ 104 :=
  (List.length_filter_le _ _).trans (by rw [List.length_range])

/-- Settles O37: header, trailer and marks are the same in every frame of a dialect, and each bit adds its space. -/
theorem airTimeOfAFrame : Obligations.AirTimeOfAFrame := fun b => by
  have hle := length_oneBits_le b
  refine ⟨?_, ?_⟩
  · rw [airTime_encodeFrame (x := 2250) (y := 1100) b rfl rfl,
      show airTime [headerPulse .A] = 13393 by rfl, show airTime (trailerPulses .A) = 9568 by rfl]
    unfold wireBit at *
    omega
  · rw [airTime_encodeFrame (x := 1193) (y := 2293) b rfl rfl,
      show airTime [headerPulse .B] = 13636 by rfl, show airTime (trailerPulses .B) = 0 by rfl]
    unfold wireBit at *
    omega

end Sys2Proof.Proofs
end

section
/-! SUPPORT. The reception of a capture all of whose pulses are good, the capture of a frame of the own and of the other
dialect, and the statements about round trips settled from these (43_timing_decoder.md R172, R173,
70_reset_and_hazards.md R221). -/

namespace Sys2Proof.Proofs

open Sys2Proof.Machine Sys2Proof.Laws Sys2Proof.Claims

variable {s t : State} {d : Dialect} {m : Matcher} {q : List Pulse} {b : Nat → Byte} {p : Pulse}

/-! ## Reception (43_timing_decoder.md R151, R169) -/

/-- The 13 bytes of `b` as a whole buffer. -/
def wholeBuffer (b : Nat → Byte) : Memory := Memory.ofPayload (Vector.ofFn fun i : Fin 13 => b i)

theorem wf_wholeBuffer (b : Nat → Byte) : (wholeBuffer b).wf = true := wf_ofPayload _

theorem read_wholeBuffer (b : Nat → Byte) {i : Nat} (hi : i < 13) : (wholeBuffer b).read i = some (b i) := by
  rw [wholeBuffer, read_ofPayload _ i hi, Vector.getElem_ofFn]

/-- The state in which a complete capture of the bytes `b` leaves the demodulation (43_timing_decoder.md R156). -/
def captured (s : State) (b : Nat → Byte) : State :=
  { s with buf := wholeBuffer b, pos := 105, err := .none, fsm := .validating }

theorem bufferHolds_captured (s : State) (b : Nat → Byte) : bufferHolds (captured s b) b :=
  fun _ hi => read_wholeBuffer b hi

/-- A capture is complete: a header, and 104 good bit pulses that carry the bits of `b`. -/
def Carries (d : Dialect) (m : Matcher) (q : List Pulse) (b : Nat → Byte) : Prop :=
  startsWithHeader d m q ∧ GoodBits d m q (wireBit b) 104

theorem demodulate_of_carries (h : Carries s.dsel s.matcher s.rxq b) : demodulate s = captured s b := by
  obtain ⟨⟨p, hp, hheader⟩, hbits⟩ := h
  obtain ⟨x, hx, ha⟩ := runDecoder_complete hp hheader hbits
  have hpayload : x.payload = Vector.ofFn fun i : Fin 13 => b i := payload_eq_of_bits fun n hn => by
    rw [ha.payload n hn, if_pos hn, payloadBit, Vector.getElem_ofFn, wireBit]
  rw [demodulate_of_goOn hx, hpayload, ha.pos, ha.fsm]
  rfl

/-- `DECODE` of a complete capture is the cascade on its bytes. -/
theorem exec_decode_of_carries (h : Carries s.dsel s.matcher s.rxq b) :
    exec .decode s = .next (runCascade b (captured s b)) := by
  have ht := demodulate_of_carries h
  rw [exec_decode_validating (by rw [ht]; rfl), ht, runCascade_congr fun i hi => ?_]
  rw [bufferHolds_captured s b i hi, Option.getD_some]

/-! ## A frame of the own dialect (43_timing_decoder.md R172) -/

/-- Each symbol carries its bit: one that is sent for the other value matches the zero-symbol alone. -/
theorem pulseCarries_symbolPulse (h : SeparatesSymbols d m) (v : Bool) : pulseCarries d m (symbolPulse d v) v := by
  have hzero : pulseMatches m (zeroPulse d) (onePulse d) = false := by
    simpa using fun hone => h (zeroPulse d) ⟨hone, pulseMatches_refl m _⟩
  cases d <;> cases v
  · exact .inr ⟨hzero, pulseMatches_refl m _, rfl⟩
  · exact .inl ⟨pulseMatches_refl m _, rfl⟩
  · exact .inl ⟨pulseMatches_refl m _, rfl⟩
  · exact .inr ⟨hzero, pulseMatches_refl m _, rfl⟩

theorem carries_encodeFrame (h : SeparatesSymbols d m) (b : Nat → Byte) : Carries d m (encodeFrame d b) b :=
  ⟨⟨_, encodeFrame_zero d b, pulseMatches_refl m _⟩,
    goodBits_of_bitsRead fun _ hn => ⟨_, encodeFrame_succ d b hn, pulseCarries_symbolPulse h _⟩⟩

/-- The finalized buffer of a Command, as `CSUMW` leaves it, is the one that a receiver of its frame builds. -/
theorem wholeBuffer_finalizedByte (s : State) :
    wholeBuffer (finalizedByte s.dsel s.cmd) = (packBuf s).write 12 (finalizedByte s.dsel s.cmd 12) := by
  have hwf := wf_write (finalizedByte s.dsel s.cmd 12) (a := 12) (by decide) (packBuf_wf s)
  refine eq_of_read_eq (wf_wholeBuffer _) hwf fun a => ?_
  by_cases ha : a < 13
  · have hpacked := read_packBuf_write (s := s) ha
    rw [read_write] at hpacked
    rw [read_wholeBuffer _ ha, read_write]
    by_cases h12 : a = 12
    · rw [if_pos h12, h12]
    · rw [if_neg h12] at hpacked ⊢
      rw [hpacked, finalizedByte, Function.update_of_ne h12]
  · rw [read_of_wf (wf_wholeBuffer _) (Nat.not_lt.mp ha), read_of_wf hwf (Nat.not_lt.mp ha)]

/-- `DECODE` of the frame that was sent is the cascade on the sent bytes. -/
theorem exec_decode_of_ownFrame (hsep : SeparatesSymbols t.dsel t.matcher) (htxq : t.txq = encodeFrame t.dsel b) :
    exec .decode (t.setRxq t.txq) = .next (runCascade b (captured (t.setRxq t.txq) b)) :=
  exec_decode_of_carries (by rw [State.setRxq_rxq, htxq]; exact carries_encodeFrame hsep b)

/-- Settles O46: the frame carries the finalized bytes, which pass all five checks and say the Command. -/
theorem transmittedCommandIsReceived : Obligations.TransmittedCommandIsReceived := by
  intro s hcmd hlegal hsep
  obtain ⟨t, ht, hdsel, hmatcher, htxq, hbuf⟩ : ∃ t, runOps (expandPseudo .transmit) s = .next t ∧ t.dsel = s.dsel ∧
      t.matcher = s.matcher ∧ t.txq = encodeFrame s.dsel (finalizedByte s.dsel s.cmd) ∧
      t.buf = wholeBuffer (finalizedByte s.dsel s.cmd) :=
    ⟨_, runOps_transmit hcmd, rfl, rfl, rfl, (wholeBuffer_finalizedByte s).symm⟩
  rw [← hdsel, ← hmatcher] at hsep
  rw [← hdsel] at htxq hbuf
  refine ⟨t, _, ht, runOps_cons_of_next (exec_decode_of_ownFrame hsep htxq), ?_⟩
  have hpass : firstFieldFailure t.dsel (finalizedByte t.dsel s.cmd) = none :=
    (firstFieldFailure_finalizedByte t.dsel s.cmd).trans (firstFieldFailure_packedByte (legalEnums_of_legal hlegal))
  rw [runCascade_of_pass (s := captured (t.setRxq t.txq) _) hpass (checksumOf_finalizedByte t.dsel s.cmd)]
  refine ⟨rfl, rfl, ?_, hbuf.symm⟩
  exact (commandOf_finalizedByte t.dsel s.cmd).trans (clamped_of_legal hlegal)

/-- Settles O48: byte 12 of the packed buffer is 0, so the field checks pass and the checksum check fails. -/
theorem unfinalizedFrameIsRejected : Obligations.UnfinalizedFrameIsRejected := by
  intro s hcmd hlegal hsep
  have hpacked := bufferHolds_packed s
  obtain ⟨t, ht, hdsel, hmatcher, htxq, hholds⟩ : ∃ t, runOps [.pack, .encode] s = .next t ∧ t.dsel = s.dsel ∧
      t.matcher = s.matcher ∧ t.txq = encodeFrame s.dsel (packedByte s.dsel s.cmd) ∧
      bufferHolds t (packedByte s.dsel s.cmd) := by
    rw [runOps_cons_of_next (exec_pack hcmd), runOps_cons_of_next (exec_encode_of_bufferHolds hpacked)]
    exact ⟨_, rfl, rfl, rfl, rfl, hpacked⟩
  rw [← hdsel, ← hmatcher] at hsep
  rw [← hdsel] at htxq hholds ⊢
  refine ⟨t, _, packedByte t.dsel s.cmd, ht, hholds, exec_decode_of_ownFrame hsep htxq, fun hsum => ?_⟩
  rw [← checksumOf_eq_bufferSum] at hsum ⊢
  have hpass : firstFieldFailure t.dsel (packedByte t.dsel s.cmd) = none := firstFieldFailure_packedByte hlegal
  rw [runCascade_of_checksumMismatch (s := captured (t.setRxq t.txq) _) hpass hsum]
  exact ⟨rfl, rfl, rfl, rfl⟩

/-- A receiver in Dialect A, a legal Command in `CMD`, whose `MATCH` takes a zero-symbol for a one-symbol. -/
def receiverOfOnesOnly : State :=
  (State.resetWith .A ⟨[(zeroPulse .A, onePulse .A)]⟩).setCmd
    { power := true, mode := 0x7, fan := 0x9, swing := 0x0, temp := 24 }

/-- To that receiver the frame of any buffer carries ones only. -/
theorem carries_ones (b : Nat → Byte) :
    Carries .A receiverOfOnesOnly.matcher (encodeFrame .A b) fun _ => 0xFF := by
  refine ⟨⟨_, encodeFrame_zero .A b, pulseMatches_refl _ _⟩,
    goodBits_of_bitsRead fun n hn => ⟨_, encodeFrame_succ .A b hn, .inl ⟨?_, ?_⟩⟩⟩
  · cases wireBit b n <;> decide
  · exact (BitVec.getLsbD_allOnes (v := 8)).trans (decide_eq_true (Nat.mod_lt n (by decide)))

/-- Refutes O47: the receiver reads every symbol as a 1, and 0xFF in byte 0 is no identity (log 15). -/
theorem not_transmittedCommandIsReceivedWithoutDisjointness :
    ¬ Obligations.TransmittedCommandIsReceivedWithoutDisjointness := by
  intro h
  obtain ⟨t, u, ht, hu, haccepted, -⟩ := h receiverOfOnesOnly rfl (by decide)
  have htransmitted := Host.Outcome.next.inj (ht.symm.trans (runOps_transmit (s := receiverOfOnesOnly) rfl))
  have hcarries : Carries (t.setRxq t.txq).dsel (t.setRxq t.txq).matcher (t.setRxq t.txq).rxq fun _ => 0xFF := by
    rw [htransmitted]
    exact carries_ones _
  have hident : firstFieldFailure t.dsel (fun _ => 0xFF) = some .identityMismatch := by
    rw [htransmitted]
    rfl
  have hdecode := runOps_cons_of_next (l := []) (exec_decode_of_carries hcarries)
  rw [runCascade_of_fieldFailure (s := captured (t.setRxq t.txq) _) hident] at hdecode
  obtain rfl := Host.Outcome.next.inj (hdecode.symm.trans hu)
  cases haccepted

/-! ## A frame of the other dialect (43_timing_decoder.md R173) -/

theorem headerPulse_injective : Function.Injective headerPulse := by
  intro d d' h
  cases d <;> cases d' <;> revert h <;> decide

/-- Settles O49: the headers of the two dialects differ. -/
theorem otherDialectsFrameIsHeaderMismatch : Obligations.OtherDialectsFrameIsHeaderMismatch := by
  intro s d b hd hexact hrxq
  obtain ⟨t, ht, -, hrejected⟩ := firstPulseNotTheHeaderIsHeaderMismatch s .decode (.inr rfl) fun p hp => by
    rw [hrxq, encodeFrame_zero] at hp
    obtain rfl := Option.some.inj hp
    rw [hexact, pulseMatches_exact]
    exact beq_false_of_ne (headerPulse_injective.ne hd)
  rw [hrejected] at ht
  exact ⟨_, ht, rfl, rfl⟩

theorem wireBit_complement (b : Nat → Byte) (n : Nat) : wireBit (fun i => ~~~(b i)) n = !wireBit b n := by
  simp [wireBit, Nat.mod_lt]

/-- To a receiver that takes the other dialect's symbols for its own, each symbol carries the opposite bit. -/
theorem pulseCarries_otherSymbol {own : Dialect} (hd : d ≠ own)
    (hone : pulseMatches m (onePulse d) (onePulse own) = true)
    (hzeroOne : pulseMatches m (zeroPulse d) (onePulse own) = false)
    (hzero : pulseMatches m (zeroPulse d) (zeroPulse own) = true) (v : Bool) :
    pulseCarries own m (symbolPulse d v) !v := by
  cases d <;> cases own
  · exact absurd rfl hd
  · cases v
    · exact .inr ⟨hzeroOne, hzero, rfl⟩
    · exact .inl ⟨hone, rfl⟩
  · cases v
    · exact .inl ⟨hone, rfl⟩
    · exact .inr ⟨hzeroOne, hzero, rfl⟩
  · exact absurd rfl hd

/-! ## The complement of a legal buffer (43_timing_decoder.md R173) -/

theorem ext_complement (x : Byte) (off w : Nat) (h : off + w ≤ 8) : ext (~~~x) off w = ~~~(ext x off w) := by
  apply BitVec.eq_of_getLsbD_eq
  intro k hk
  rw [getLsbD_ext, BitVec.getLsbD_not, BitVec.getLsbD_not, getLsbD_ext]
  simp [hk, show off + k < 8 by omega]

theorem complement_identity {own : Dialect} (hd : d ≠ own) :
    ~~~(byDialect d 0xC3#8 0x3C#8) = byDialect own 0xC3#8 0x3C#8 := by
  cases d <;> cases own
  · exact absurd rfl hd
  · rfl
  · rfl
  · exact absurd rfl hd

/-- The complement of a legal swing code is legal. -/
theorem complement_swing : ∀ v ∈ [0x0#3, 0x7#3], ~~~v ∈ [0x0#3, 0x7#3] := by decide

/-- The complement of a legal fan-speed code is illegal. -/
theorem complement_fan : ∀ f ∈ [0x5#4, 0x9#4, 0xB#4, 0xD#4], ~~~f ∉ [0x5#4, 0x9#4, 0xB#4, 0xD#4] := by decide

/-- The complement of a legal buffer has the own identity and a legal swing code, and fails at the latest at the fan
speed. -/
theorem fieldFailure_complement {own : Dialect} (hd : d ≠ own) (h : fieldFailure d b = none) :
    ∃ f, fieldFailure own (fun i => ~~~(b i)) = some (.fieldInvalid f) ∧ (f = .mode ∨ f = .fanSpeed) := by
  obtain ⟨hident, -, hswing, hfan⟩ := fieldFailure_eq_none_iff.mp h
  have hident' : ~~~(b 0) = byDialect own 0xC3 0x3C := hident ▸ complement_identity hd
  have hswing' : ext (~~~(b 1)) 0 3 ∈ [0x0#3, 0x7#3] := ext_complement (b 1) 0 3 (by decide) ▸ complement_swing _ hswing
  have hfan' : ext (~~~(b 4)) 0 4 ∉ [0x5#4, 0x9#4, 0xB#4, 0xD#4] :=
    ext_complement (b 4) 0 4 (by decide) ▸ complement_fan _ hfan
  rw [fieldFailure, if_neg (not_not.mpr hident')]
  by_cases hmode : ext (~~~(b 6)) 0 3 ∈ [0x1#3, 0x5#3, 0x6#3, 0x7#3]
  · rw [if_neg (not_not.mpr hmode), if_neg (not_not.mpr hswing'), if_pos hfan']
    exact ⟨_, rfl, .inr rfl⟩
  · rw [if_pos hmode]
    exact ⟨_, rfl, .inl rfl⟩

/-- Settles O50: the capture carries the complement of the sent bytes, and that of a legal buffer is not legal. -/
theorem tolerantReceiverComplementsTheOtherDialect : Obligations.TolerantReceiverComplementsTheOtherDialect := by
  intro s d b hd hrxq hheader hone hzeroOne hzero
  have hcarries : Carries s.dsel s.matcher s.rxq fun i => ~~~(b i) := by
    rw [hrxq]
    refine ⟨⟨_, encodeFrame_zero d b, hheader⟩,
      goodBits_of_bitsRead fun n hn => ⟨_, encodeFrame_succ d b hn, ?_⟩⟩
    rw [wireBit_complement]
    exact pulseCarries_otherSymbol hd hone hzeroOne hzero _
  refine ⟨⟨demodulate s, rfl, ?_⟩, fun hlegal => ⟨_, exec_decode_of_carries hcarries, ?_⟩⟩
  · rw [demodulate_of_carries hcarries]
    exact ⟨rfl, bufferHolds_captured s _⟩
  · obtain ⟨f, hfail, hf⟩ := fieldFailure_complement hd hlegal
    rw [← firstFieldFailure_eq_fieldFailure] at hfail
    rw [runCascade_of_fieldFailure (s := captured s _) hfail]
    exact ⟨rfl, hf.imp (congrArg _) (congrArg _)⟩

end Sys2Proof.Proofs
end

section
/-! SUPPORT. The positional decode of a capture and the state machine's, and the statement that they agree
(43_timing_decoder.md R170). -/

namespace Sys2Proof.Proofs

open Sys2Proof.Machine Sys2Proof.Laws Sys2Proof.Claims

variable {s : State} {d : Dialect} {m : Matcher} {q : List Pulse} {b : Nat → Byte} {bits : Nat → Bool} {p : Pulse}

/-! ## A number from its bits -/

/-- The number whose bit `j` below `n` says whether `c j` holds. -/
def numberOfBits (c : Nat → Bool) (n : Nat) : Nat := ((List.range n).map fun j => if c j then 2 ^ j else 0).sum

theorem numberOfBits_succ (c : Nat → Bool) (n : Nat) :
    numberOfBits c (n + 1) = numberOfBits c n + if c n then 2 ^ n else 0 := by
  simp [numberOfBits, List.range_succ]

theorem numberOfBits_lt (c : Nat → Bool) (n : Nat) : numberOfBits c n < 2 ^ n := by
  induction n with
  | zero => exact Nat.one_pos
  | succ n ih =>
    rw [numberOfBits_succ, Nat.pow_succ]
    split <;> omega

theorem testBit_numberOfBits (c : Nat → Bool) {n k : Nat} (hk : k < n) : (numberOfBits c n).testBit k = c k := by
  induction n with
  | zero => contradiction
  | succ n ih =>
    rw [numberOfBits_succ]
    obtain hlt | rfl := Nat.lt_succ_iff_lt_or_eq.mp hk
    · split
      · rw [Nat.add_comm, Nat.testBit_two_pow_add_gt hlt, ih hlt]
      · exact ih hlt
    · have hbelow : (numberOfBits c k).testBit k = false := Nat.testBit_lt_two_pow (numberOfBits_lt c k)
      cases hc : c k
      · simpa using hbelow
      · rw [if_pos rfl, Nat.add_comm, Nat.testBit_two_pow_add_eq, hbelow, Bool.not_false]

/-! ## The received bits -/

/-- The bits of the received bytes are the received bits. -/
theorem wireBit_receivedByte {bit : Nat → Option Bool} (n : Nat) :
    wireBit (receivedByte bit) n = decide (bit n = some true) := by
  have hn : 8 * (n / 8) + n % 8 = n := Nat.div_add_mod n 8
  have hbit := testBit_numberOfBits (fun j => decide (bit (8 * (n / 8) + j) = some true))
    (Nat.mod_lt n (by decide : 0 < 8))
  rw [wireBit, receivedByte, BitVec.getLsbD_ofNat, decide_eq_true (Nat.mod_lt n (by decide)), Bool.true_and]
  simpa [numberOfBits, hn] using hbit

theorem receivedBit_eq (n : Nat) : receivedBit d m q n = (q[n + 1]?.bind (classifyPulse d m)).map (symbolBit d) := by
  rw [receivedBit, Option.map_bind]
  rfl

/-- A capture all of whose bit pulses are good carries its received bytes. -/
theorem goodBits_receivedByte (h : GoodBits d m q bits 104) :
    GoodBits d m q (wireBit (receivedByte (receivedBit d m q))) 104 := fun n hn => by
  rw [wireBit_receivedByte, receivedBit_eq, h n hn]
  simp

/-! ## The verdict by position -/

theorem decodeVerdict_of_noHeader (h : ∀ p, q[0]? = some p → pulseMatches m p (headerPulse d) = false) :
    decodeVerdict d m q = .rejected .headerMismatch := by
  cases q with
  | nil => rfl
  | cons p q => simp [decodeVerdict, h p rfl]

theorem decodeVerdict_of_header (h : startsWithHeader d m q) : decodeVerdict d m q =
    if (List.range 104).any (fun n => (receivedBit d m q n).isNone) then .rejected .truncatedMessage
    else payloadVerdict d (receivedByte (receivedBit d m q)) := by
  obtain ⟨p, hp, hheader⟩ := h
  cases q with
  | nil => cases hp
  | cons p' q =>
    obtain rfl : p' = p := Option.some.inj hp
    simp [decodeVerdict, hheader]

/-- The Command that the host reads in `RES` after an acceptance. -/
theorem resCommand_accepted (t : State) (c : Command) :
    resCommand (((t.setResCommand c).setErr .none).setFsm .accepted) = c := rfl

theorem bufferHolds_of_buf_eq {t : State} (h : bufferHolds s b) (hbuf : t.buf = s.buf) : bufferHolds t b :=
  fun i hi => by rw [hbuf, h i hi]

/-- The cascade shows the verdict on the payload. -/
theorem shows_runCascade (h : bufferHolds s b) : shows (runCascade b s) (payloadVerdict s.dsel b) := by
  have hheld : bufferHolds (runCascade b s) b := bufferHolds_of_buf_eq h (runCascade_buf b s)
  rcases runCascade_cases b s with ⟨r, hfail, -, e⟩ | ⟨hpass, hsum, e⟩ | ⟨hpass, hsum, e⟩ <;>
    rw [e] at hheld ⊢ <;> rw [payloadVerdict]
  · rw [hfail]
    exact ⟨rfl, rfl⟩
  · have hbyte : ¬ checksumOf s.dsel b = b csumByte := hsum
    simp only [hpass, if_neg hbyte]
    exact ⟨rfl, rfl⟩
  · have hbyte : checksumOf s.dsel b = b csumByte := hsum
    simp only [hpass, if_pos hbyte]
    exact ⟨rfl, rfl, resCommand_accepted _ _, hheld⟩

/-- Settles O45: the state machine and the positional function end alike for each of the three kinds of capture. -/
theorem decodeComputesTheDecodeFunction : Obligations.DecodeComputesTheDecodeFunction := by
  intro s
  rcases capture_cases s.dsel s.matcher s.rxq with hheader | ⟨p, bits, hp, hm, ⟨n, hn, hgood, hbad⟩ | hgood⟩
  · have ht := demodulate_of_reject (runDecoder_noHeader hheader)
    refine ⟨_, exec_decode_rejected (by rw [ht]; rfl), ?_⟩
    rw [decodeVerdict_of_noHeader hheader, ht]
    exact ⟨rfl, rfl⟩
  · obtain ⟨x, hx, -⟩ := runDecoder_truncated hn hp hm hgood hbad
    have ht := demodulate_of_reject hx
    have hmissing : (List.range 104).any (fun k => (receivedBit s.dsel s.matcher s.rxq k).isNone) = true :=
      List.any_eq_true.mpr ⟨n, List.mem_range.mpr hn, by rw [receivedBit_eq, hbad]; rfl⟩
    refine ⟨_, exec_decode_rejected (by rw [ht]; rfl), ?_⟩
    rw [decodeVerdict_of_header ⟨p, hp, hm⟩, if_pos hmissing, ht]
    exact ⟨rfl, rfl⟩
  · have hwhole : ¬ (List.range 104).any (fun k => (receivedBit s.dsel s.matcher s.rxq k).isNone) = true := by
      simp only [List.any_eq_true, List.mem_range, not_exists, not_and]
      intro k hk
      rw [receivedBit_eq, hgood k hk]
      nofun
    refine ⟨_, exec_decode_of_carries ⟨⟨p, hp, hm⟩, goodBits_receivedByte hgood⟩, ?_⟩
    rw [decodeVerdict_of_header ⟨p, hp, hm⟩, if_neg hwhole]
    exact shows_runCascade (bufferHolds_captured s _)

end Sys2Proof.Proofs
end

section
/-! SUPPORT. The statements about single steps, codes, reads, reserved bits and matching tables (30_encoding.md R66,
10_state.md sections 6 and 10, 20_memory.md section 4, 00_scope.md section 4). -/

namespace Sys2Proof.Proofs

open Sys2Proof.Machine Sys2Proof.Laws Sys2Proof.Claims

variable {s : State} {i : Instr}

/-! ## Codes and steps -/

theorem encodeOp_of_mem_opTable : ∀ row ∈ opTable, row.1 = encodeOp row.2 := by
  decide

/-- Settles O6: the table lists each operation once, with its code. -/
theorem decodeAndEncodeAgree : Obligations.DecodeAndEncodeAgree := by
  refine ⟨fun i rest => ?_, fun op i h => encodeOp_of_mem_opTable (op, i) (decodeOp_eq_ok_iff.mp h)⟩
  rw [encodeBytes, List.singleton_append, decodeBytes, decodeOp_encodeOp]
  rfl

/-- A word that decodes to an operation holds its code. -/
theorem decodeOp_of_decodeTableWord {w : Nat} (h : decodeTableWord 8 w = some i) :
    decodeOp (firstByte 8 w) = .ok i := by
  rw [decodeTableWord, decodeBytes] at h
  cases hop : decodeOp (firstByte 8 w) with
  | ok j => rw [hop] at h; exact congrArg _ (Option.some.inj h)
  | error e => rw [hop] at h; cases h

/-- Settles O4: a step takes the oldest event, and presenting a word puts its code there. -/
theorem stepRunsTheDecodedInstruction : Obligations.StepRunsTheDecodedInstruction := by
  refine ⟨fun s op rest i hpending hop => ?_, fun s w i hw => ?_, fun s => step_of_idle⟩
  · rw [step_of_pending hpending]
    exact issueOperation_of_decodeOp hop
  · have hpresented : (s.withFetchWord 8 w).pending = .operation (firstByte 8 w) :: s.pending := rfl
    rw [step_of_pending hpresented]
    exact issueOperation_of_decodeOp (decodeOp_of_decodeTableWord hw)

/-! ## The outside parties -/

theorem hostWriteBuf_of_lt {a : Nat} (ha : a < 13) (v : Byte) (s : State) :
    hostWriteBuf a v s = .next (s.setBuf (s.buf.write a v)) :=
  if_pos (by simpa [bufIndexExists] using ha)

/-- Settles O9: a step with one of these events pending is that write. -/
theorem outsideWritesDoOnlyTheirRegister : Obligations.OutsideWritesDoOnlyTheirRegister := fun _ _ =>
  ⟨fun _ h => step_of_pending h,
    fun a v ha h => ⟨_, (step_of_pending h).trans (hostWriteBuf_of_lt ha v _), storesByte_write _ a v⟩,
    fun _ h => step_of_pending h, fun _ h => step_of_pending h⟩

theorem hostView_res (s : State) (f : ResField) : hostView s (.res f) = .ok (.number (resField s f).2) := by
  cases f <;> rfl

/-- Settles O11: a read of a register that exists is a step that changes nothing, and what it shows is the register. -/
theorem readsShowTheRegisterAndChangeNothing : Obligations.ReadsShowTheRegisterAndChangeNothing := by
  refine fun s rest => ⟨fun r hr h => ⟨(step_of_pending h).trans (hostRead_eq_next hr), hostView_ok hr⟩,
    fun h => ⟨step_of_pending h, rfl⟩, rfl, rfl, fun a x => hostView_bufByte_written,
    fun a ha hnone => ⟨_, hostView_bufByte_unwritten ha hnone⟩, hostView_res s, ?_, ?_, rfl, rfl, rfl, rfl⟩
  · cases hcsok : s.csok <;> simp [hostView, hcsok]
  · cases hdsel : s.dsel <;> simp [hostView, hdsel, dselCode, byDialect]

/-- Settles O15: the host reads `ERR` through the table of reason codes. -/
theorem reasonCodes : Obligations.ReasonCodes := fun _ => ⟨rfl, rfl, rfl, rfl, rfl, rfl, rfl, rfl⟩

/-- Settles O16: the 104 bits are tried one by one against the seven fields of the layout. -/
theorem reservedPayloadBits : Obligations.ReservedPayloadBits := by
  exact ⟨by decide +kernel, by decide, by decide, by decide⟩

/-! ## Matching tables (00_scope.md R5, log 2) -/

theorem finite_pulse : Finite Pulse :=
  Finite.of_injective (fun p : Pulse => (p.mark, p.space)) fun ⟨_, _⟩ ⟨_, _⟩ h => by
    cases h
    rfl

/-- The table of a function: all pairs that it accepts, of which there are finitely many. -/
theorem exists_table (f : Pulse → Pulse → Bool) :
    ∃ l : List (Pulse × Pulse), ∀ o n, (o, n) ∈ l ↔ f o n = true := by
  have := finite_pulse
  refine ⟨(Set.toFinite {x : Pulse × Pulse | f x.1 x.2 = true}).toFinset.toList, fun o n => ?_⟩
  simp

/-- Settles O58: P-REFL is built into the match, and a reflexive function accepts the equal pairs and those of its
table. -/
theorem matchingTablesAreTheReflexiveFunctions : Obligations.MatchingTablesAreTheReflexiveFunctions := by
  refine ⟨pulseMatches_refl, fun f hrefl => ?_⟩
  obtain ⟨l, hl⟩ := exists_table f
  refine ⟨⟨l⟩, fun o n => ?_⟩
  rw [pulseMatches, Bool.eq_iff_iff, Bool.or_eq_true, List.contains_iff_mem, hl, beq_iff_eq]
  exact ⟨fun h => h.elim (fun heq => heq ▸ hrefl o) id, .inr⟩

end Sys2Proof.Proofs
end
